-- ==== Sys2Proof/Word.lean ====
section
/-! DEFINITION. The word types of the block (00_scope.md R10, R14): bytes, the 40-bit command and response words,
16-bit string addresses, 7-bit bus device addresses. Everything is unsigned. -/

namespace Sys2Proof

/-- A byte: operand, result, register image byte, character (R10, R72). -/
abbrev Byte := BitVec 8

/-- A command word or a response word (R70, R71). -/
abbrev Word40 := BitVec 40

/-- An address of the string memory (R51, `STR_ADDR_WIDTH` = 16). -/
abbrev StrAddr := BitVec 16

/-- A device address on the two-wire bus (R7). -/
abbrev DevAddr := BitVec 7

end Sys2Proof
end

