-- ==== Sys2Proof/Syntax.lean ====
section
/-! DEFINITION. The 14 commands (30_encoding.md R79), one constructor per row of spec/opcode_table.json. Operands are
the whole bytes their format uses (R73 to R77); the operand bytes a format ignores are no part of a command (R81). -/

namespace Sys2Proof

/-- A command of the block (R79). -/
inductive Instr where
  /-- `BIN2BCD n`, format B (R104). -/
  | bin2bcd (n : Byte)
  /-- `BCD2BIN b`, format B (R105). -/
  | bcd2bin (b : Byte)
  /-- `RTC_INIT`, format N (R133). -/
  | rtcInit
  /-- `RTC_SET_TIME`, format Q, operands `a0` to `a3` (R134). -/
  | rtcSetTime (seconds minutes hours fmt : Byte)
  /-- `RTC_GET_TIME`, format N (R136). -/
  | rtcGetTime
  /-- `RTC_SET_DATE`, format Q, operands `a0` to `a3` (R137). -/
  | rtcSetDate (day month year weekday : Byte)
  /-- `RTC_GET_DATE`, format N (R139). -/
  | rtcGetDate
  /-- `LCD_INIT`, format N (R165). -/
  | lcdInit
  /-- `LCD_CMD b`, format B (R167). -/
  | lcdCmd (b : Byte)
  /-- `LCD_CHAR b`, format B (R168). -/
  | lcdChar (b : Byte)
  /-- `LCD_STR addr`, format A, `addr` = `{a1, a0}` (R169). -/
  | lcdStr (addr : StrAddr)
  /-- `LCD_HOME`, format N (R170). -/
  | lcdHome
  /-- `LCD_CLEAR`, format N (R171). -/
  | lcdClear
  /-- `LCD_CURSOR row, column`, format P (R172). -/
  | lcdCursor (row column : Byte)
deriving DecidableEq, Repr

end Sys2Proof
end

