-- ==== Sys2Proof/WellFormed.lean ====
section
/-! DEFINITION. Well-formedness. The spec admits every value of every operand of a command (30_encoding.md R78, R81:
an operand value never makes a defined opcode illegal), and `Instr` types each operand with exactly its bits, so every
`Instr` is well formed. What can be ill formed is a line of the textual form of R83, whose operands are plain numbers:
`SourceLine.wellFormed` checks each of them. -/

namespace Sys2Proof

/-- Every command is well formed: its operands are bytes, or the 16-bit address, by their types (R72, R81). -/
def Instr.wellFormed : Instr → Bool
  | .bin2bcd _ => true
  | .bcd2bin _ => true
  | .rtcInit => true
  | .rtcSetTime _ _ _ _ => true
  | .rtcGetTime => true
  | .rtcSetDate _ _ _ _ => true
  | .rtcGetDate => true
  | .lcdInit => true
  | .lcdCmd _ => true
  | .lcdChar _ => true
  | .lcdStr _ => true
  | .lcdHome => true
  | .lcdClear => true
  | .lcdCursor _ _ => true

/-- The three formats of a TimeOfDay (10_state.md R24). -/
inductive TimeFormat where
  | am
  | pm
  | hour24
deriving DecidableEq, Repr

/-- One line of the textual form of R83, operands in the document's argument order, numbers as written. -/
inductive SourceLine where
  | bin2bcd (n : Nat)
  | bcd2bin (b : Nat)
  | rtcInit
  | rtcSetTime (hours minutes seconds : Nat) (fmt : TimeFormat)
  | rtcGetTime
  | rtcSetDate (day month year weekday : Nat)
  | rtcGetDate
  | lcdInit
  | lcdCmd (b : Nat)
  | lcdChar (b : Nat)
  | lcdStr (addr : Nat)
  | lcdHome
  | lcdClear
  | lcdCursor (row column : Nat)
  /-- The directive `.string addr, "text"`, with the byte value of each character; it is not a command. -/
  | string (addr : Nat) (text : List Nat)
deriving DecidableEq, Repr

/-- A number that fits an operand byte (R72). -/
def fitsByte (n : Nat) : Bool := decide (n < 256)

/-- A number that fits a string address (R76). -/
def fitsAddr (n : Nat) : Bool := decide (n < 65536)

/-- A line whose every number fits the field it is assembled into (R70, R72, R76). -/
def SourceLine.wellFormed : SourceLine → Bool
  | .bin2bcd n => fitsByte n
  | .bcd2bin b => fitsByte b
  | .rtcInit => true
  | .rtcSetTime h m s _ => fitsByte h && fitsByte m && fitsByte s
  | .rtcGetTime => true
  | .rtcSetDate d m y w => fitsByte d && fitsByte m && fitsByte y && fitsByte w
  | .rtcGetDate => true
  | .lcdInit => true
  | .lcdCmd b => fitsByte b
  | .lcdChar b => fitsByte b
  | .lcdStr a => fitsAddr a
  | .lcdHome => true
  | .lcdClear => true
  | .lcdCursor r c => fitsByte r && fitsByte c
  | .string a t => fitsAddr a && t.all fitsByte

end Sys2Proof
end

