-- ==== Sys2Proof/Decode.lean ====
section
/-! DEFINITION. Command words (30_encoding.md R70 to R85): the fields of a word, the opcode map, the decoder, total on
every 40-bit word and naming the opcode it rejects, and the encoder. -/

namespace Sys2Proof

/-! The fields of R70. -/

/-- `op` = `w[39:32]`. -/
def opField (w : Word40) : Byte := w.extractLsb' 32 8
/-- `a3` = `w[31:24]`. -/
def a3Field (w : Word40) : Byte := w.extractLsb' 24 8
/-- `a2` = `w[23:16]`. -/
def a2Field (w : Word40) : Byte := w.extractLsb' 16 8
/-- `a1` = `w[15:8]`. -/
def a1Field (w : Word40) : Byte := w.extractLsb' 8 8
/-- `a0` = `w[7:0]`. -/
def a0Field (w : Word40) : Byte := w.extractLsb' 0 8

/-- The word `{b4, b3, b2, b1, b0}`: the layout of a command word (R70) and of a response word (R71). -/
def packWord (b4 b3 b2 b1 b0 : Byte) : Word40 :=
  BitVec.cast (by decide) (b4 ++ b3 ++ b2 ++ b1 ++ b0)

/-- The address of format A (R76): `{a1, a0}`, `a1` the high byte (R54). -/
def addrOf (a1 a0 : Byte) : StrAddr := BitVec.cast (by decide) (a1 ++ a0)

/-- The high byte of a string address, `addr[15:8]` (R83). -/
def addrHigh (a : StrAddr) : Byte := a.extractLsb' 8 8
/-- The low byte of a string address, `addr[7:0]` (R83). -/
def addrLow (a : StrAddr) : Byte := a.extractLsb' 0 8

/-- What a word spells (R82): a command, or nothing, with the reserved opcode named (R80). -/
inductive Decoded where
  | instr (i : Instr)
  | reserved (op : Byte)
deriving DecidableEq, Repr

/-- The decoding procedure (R85): the opcode alone names the command (R81), and the bytes its format uses are its
operands. Every other opcode is reserved (R80). -/
def decode (w : Word40) : Decoded :=
  match (opField w).toNat with
  | 0x00 => .instr (.bin2bcd (a0Field w))
  | 0x01 => .instr (.bcd2bin (a0Field w))
  | 0x10 => .instr .rtcInit
  | 0x11 => .instr (.rtcSetTime (a0Field w) (a1Field w) (a2Field w) (a3Field w))
  | 0x12 => .instr .rtcGetTime
  | 0x13 => .instr (.rtcSetDate (a0Field w) (a1Field w) (a2Field w) (a3Field w))
  | 0x14 => .instr .rtcGetDate
  | 0x20 => .instr .lcdInit
  | 0x21 => .instr (.lcdCmd (a0Field w))
  | 0x22 => .instr (.lcdChar (a0Field w))
  | 0x23 => .instr (.lcdStr (addrOf (a1Field w) (a0Field w)))
  | 0x24 => .instr .lcdHome
  | 0x25 => .instr .lcdClear
  | 0x26 => .instr (.lcdCursor (a1Field w) (a0Field w))
  | _ => .reserved (opField w)

/-- The opcode of a command (R79). -/
def Instr.opcode : Instr → Byte
  | .bin2bcd _ => 0x00#8
  | .bcd2bin _ => 0x01#8
  | .rtcInit => 0x10#8
  | .rtcSetTime _ _ _ _ => 0x11#8
  | .rtcGetTime => 0x12#8
  | .rtcSetDate _ _ _ _ => 0x13#8
  | .rtcGetDate => 0x14#8
  | .lcdInit => 0x20#8
  | .lcdCmd _ => 0x21#8
  | .lcdChar _ => 0x22#8
  | .lcdStr _ => 0x23#8
  | .lcdHome => 0x24#8
  | .lcdClear => 0x25#8
  | .lcdCursor _ _ => 0x26#8

/-- The word of a command, operand bytes its format does not use 0 (R83, R85). -/
def encode (i : Instr) : Word40 :=
  match i with
  | .bin2bcd n => packWord 0x00#8 0#8 0#8 0#8 n
  | .bcd2bin b => packWord 0x01#8 0#8 0#8 0#8 b
  | .rtcInit => packWord 0x10#8 0#8 0#8 0#8 0#8
  | .rtcSetTime seconds minutes hours fmt => packWord 0x11#8 fmt hours minutes seconds
  | .rtcGetTime => packWord 0x12#8 0#8 0#8 0#8 0#8
  | .rtcSetDate day month year weekday => packWord 0x13#8 weekday year month day
  | .rtcGetDate => packWord 0x14#8 0#8 0#8 0#8 0#8
  | .lcdInit => packWord 0x20#8 0#8 0#8 0#8 0#8
  | .lcdCmd b => packWord 0x21#8 0#8 0#8 0#8 b
  | .lcdChar b => packWord 0x22#8 0#8 0#8 0#8 b
  | .lcdStr addr => packWord 0x23#8 0#8 0#8 (addrHigh addr) (addrLow addr)
  | .lcdHome => packWord 0x24#8 0#8 0#8 0#8 0#8
  | .lcdClear => packWord 0x25#8 0#8 0#8 0#8 0#8
  | .lcdCursor row column => packWord 0x26#8 0#8 0#8 row column

/-- The bits of a word that a command reads: the opcode and the operand bytes of its format (R73 to R77). -/
def Instr.usedBits : Instr → Word40
  | .bin2bcd _ | .bcd2bin _ | .lcdCmd _ | .lcdChar _ => 0xFF000000FF#40
  | .rtcInit | .rtcGetTime | .rtcGetDate | .lcdInit | .lcdHome | .lcdClear => 0xFF00000000#40
  | .lcdStr _ | .lcdCursor _ _ => 0xFF0000FFFF#40
  | .rtcSetTime _ _ _ _ | .rtcSetDate _ _ _ _ => 0xFFFFFFFFFF#40

/-- A row of the table of R79: the mnemonic and its `match` value. -/
structure OpRow where
  mnemonic : String
  matchWord : Word40
deriving DecidableEq, Repr

/-- The `mask` value of every row of R79. -/
def opMask : Word40 := 0xFF00000000#40

/-- The 14 rows of the table of R79, as the table lists them. -/
def opRows : List OpRow :=
  [⟨"BIN2BCD", 0x0000000000#40⟩, ⟨"BCD2BIN", 0x0100000000#40⟩, ⟨"RTC_INIT", 0x1000000000#40⟩,
   ⟨"RTC_SET_TIME", 0x1100000000#40⟩, ⟨"RTC_GET_TIME", 0x1200000000#40⟩, ⟨"RTC_SET_DATE", 0x1300000000#40⟩,
   ⟨"RTC_GET_DATE", 0x1400000000#40⟩, ⟨"LCD_INIT", 0x2000000000#40⟩, ⟨"LCD_CMD", 0x2100000000#40⟩,
   ⟨"LCD_CHAR", 0x2200000000#40⟩, ⟨"LCD_STR", 0x2300000000#40⟩, ⟨"LCD_HOME", 0x2400000000#40⟩,
   ⟨"LCD_CLEAR", 0x2500000000#40⟩, ⟨"LCD_CURSOR", 0x2600000000#40⟩]

/-- A word spells the command of a row when `w & mask == match` (R79). -/
def OpRow.spelledBy (r : OpRow) (w : Word40) : Bool := (w &&& opMask) == r.matchWord

/-- The mnemonic of a command (R79). -/
def Instr.mnemonic : Instr → String
  | .bin2bcd _ => "BIN2BCD"
  | .bcd2bin _ => "BCD2BIN"
  | .rtcInit => "RTC_INIT"
  | .rtcSetTime _ _ _ _ => "RTC_SET_TIME"
  | .rtcGetTime => "RTC_GET_TIME"
  | .rtcSetDate _ _ _ _ => "RTC_SET_DATE"
  | .rtcGetDate => "RTC_GET_DATE"
  | .lcdInit => "LCD_INIT"
  | .lcdCmd _ => "LCD_CMD"
  | .lcdChar _ => "LCD_CHAR"
  | .lcdStr _ => "LCD_STR"
  | .lcdHome => "LCD_HOME"
  | .lcdClear => "LCD_CLEAR"
  | .lcdCursor _ _ => "LCD_CURSOR"

/-- The word whose low `nbits` bits are those of `w` and whose other bits are 0. A command is one 40-bit word
presented whole (R54), so the table's bit numbers are the word's. -/
def tableWord (nbits w : Nat) : Word40 := BitVec.ofNat 40 (w % 2 ^ nbits)

/-- The decoder on a word numbered as spec/opcode_table.json numbers it; none for a reserved opcode. -/
def decodeTableWord (nbits w : Nat) : Option Instr :=
  match decode (tableWord nbits w) with
  | .instr i => some i
  | .reserved _ => none

end Sys2Proof
end

