-- ==== Sys2Proof/Config.lean ====
section
/-! DEFINITION. What an instance of the block fixes when it is built (00_scope.md R7 to R9, R32), and the free
values. The parameters are a record with the spec's defaults; State carries one such record that no step writes
(assumption log 14), so a claim about every state covers every instance. -/

namespace Sys2Proof

/-- The build-time constants of an instance (R7, R8, R9; D16, D26, D27), each with the default the spec gives. -/
structure Params where
  /-- `DEV_ADDR`, the RTC chip's device address (the document, §6). -/
  devAddr : DevAddr := 0x68#7
  /-- `REG_SECONDS`. PRESUMED default (93 G2, from general knowledge). -/
  regSeconds : Byte := 0x00#8
  /-- `REG_MINUTES`. PRESUMED default (93 G2). -/
  regMinutes : Byte := 0x01#8
  /-- `REG_HOURS`. PRESUMED default (93 G2). -/
  regHours : Byte := 0x02#8
  /-- `REG_WEEKDAY`. PRESUMED default (93 G2). -/
  regWeekday : Byte := 0x03#8
  /-- `REG_DATE`. PRESUMED default (93 G2). -/
  regDate : Byte := 0x04#8
  /-- `REG_MONTH`. PRESUMED default (93 G2). -/
  regMonth : Byte := 0x05#8
  /-- `REG_YEAR`. PRESUMED default (93 G2). -/
  regYear : Byte := 0x06#8
  /-- `CMD_FUNCTION_SET`. PRESUMED default (93 G3). -/
  cmdFunctionSet : Byte := 0x28#8
  /-- `CMD_DISPLAY_ON_CURSOR_ON`. PRESUMED default (93 G3). -/
  cmdDisplayOnCursorOn : Byte := 0x0E#8
  /-- `CMD_CLEAR`. PRESUMED default (93 G3). -/
  cmdClear : Byte := 0x01#8
  /-- `CMD_ENTRY_MODE_INC`. PRESUMED default (93 G3). -/
  cmdEntryModeInc : Byte := 0x06#8
  /-- `CMD_RETURN_HOME`. PRESUMED default (93 G3). -/
  cmdReturnHome : Byte := 0x02#8
  /-- `T_POWER_ON_MS`. -/
  tPowerOnMs : Nat := 40
  /-- `T_INIT1_MS`. -/
  tInit1Ms : Nat := 5
  /-- `T_INIT2_US`. -/
  tInit2Us : Nat := 150
  /-- `T_EN_HIGH_US`. -/
  tEnHighUs : Nat := 10
  /-- `T_EN_LOW_US`. -/
  tEnLowUs : Nat := 100
  /-- `T_SETTLE_MS`. -/
  tSettleMs : Nat := 2
deriving DecidableEq, Repr

/-- The seven register image addresses in the order of the table of R7. -/
def Params.regs (p : Params) : List Byte :=
  [p.regSeconds, p.regMinutes, p.regHours, p.regWeekday, p.regDate, p.regMonth, p.regYear]

/-- What R7 requires of an instance: the seven register image addresses pairwise distinct. -/
abbrev Params.wf (p : Params) : Prop := p.regs.Nodup

/-- What the bus collaborator answers to one transaction (R15, R65): `ok` with a byte, which only a `BusRead`
delivers to the block, or `fail`, which covers no acknowledgment and time-out alike. -/
inductive BusAnswer where
  | ok (data : Byte)
  | fail
deriving DecidableEq, Repr, Inhabited

/-- FREE VALUE (93 U4, U15; R65): the bus answers that no script in the state fixes, by the number of free answers
drawn before. No body: nothing can be proved of a particular one (assumption log 4). -/
opaque Config.freeBusAnswer : Nat → BusAnswer

/-- OPEN parameter `BUS_SPEED` of the bus collaborator (R7, D22): no value, and no rule of the block reads it. -/
opaque Config.busSpeed : Nat

/-- OPEN parameter `BUS_TIMEOUT` of the bus collaborator (R7, D23): no value, and no rule of the block reads it. -/
opaque Config.busTimeout : Nat

/-- DESIGN CHOICE (assumption log 6): what a byte of the string memory reads as that the host has not written. -/
def Config.unlistedStringByte : Byte := 0xFF#8

/-- DESIGN CHOICE (assumption log 16): what a register of the `SimRTC` fixture reads as that nothing has written. -/
def Config.unlistedChipByte : Byte := 0x00#8

end Sys2Proof
end

