-- ==== Sys2Proof/Machine/State.lean ====
section
/-! DEFINITION. The state of the machine: the eight items of 10_state.md R20, three fields of the model's own
that give the sequencing a hardware form, the constants of the instance, the trace, and the outside as plain data. -/

namespace Sys2Proof.Machine

/-- The five completion statuses (60_exceptions.md R220); their codes are `Status.code` in Machine/Flags.lean. -/
inductive Status where
  | ok
  | busError
  | invalidField
  | unimplemented
  | notReady
deriving DecidableEq, Repr

/-- The result registers `r3` to `r0` (10_state.md R22). -/
structure Results where
  r3 : Byte
  r2 : Byte
  r1 : Byte
  r0 : Byte
deriving DecidableEq, Repr

/-- The response register (10_state.md R22). The result bytes are absent after a status other than `OK`: "a model
represents them as absent" is R22's own `none`. -/
structure Rsp where
  valid : Bool
  status : Status
  results : Option Results
deriving DecidableEq, Repr

/-- `lcd_state` (10_state.md R27). -/
inductive LcdState where
  | uninitialized
  | initializing
  | ready
deriving DecidableEq, Repr

/-- The seven LCD lines (42_lcd.md R160). -/
inductive Line where
  | rs
  | rw
  | en
  | d4
  | d5
  | d6
  | d7
deriving DecidableEq, Repr

/-- What the block's output register of a line holds (10_state.md R28). `configured` is "output, level unknown"
(93 U6) and is no level. -/
inductive LineLevel where
  | unconfigured
  | configured
  | low
  | high
deriving DecidableEq, Repr

/-- The seven output registers (10_state.md R28). -/
structure Lines where
  rs : LineLevel
  rw : LineLevel
  en : LineLevel
  d4 : LineLevel
  d5 : LineLevel
  d6 : LineLevel
  d7 : LineLevel
deriving DecidableEq, Repr

/-- The four working bytes `scratch[0]` to `scratch[3]` (10_state.md R29). -/
structure Scratch where
  b0 : Byte
  b1 : Byte
  b2 : Byte
  b3 : Byte
deriving DecidableEq, Repr

/-- An event of the trace (00_scope.md R15), the acceptance (43_sequencer.md R201), the completion (R205) and reset
(70_reset_and_hazards.md R250). -/
inductive Event where
  | reset
  | accept (word : Word40)
  | response (status : Status) (results : Option Results)
  | busInit
  | busWrite (dev : DevAddr) (bytes : List Byte)
  | busRead (dev : DevAddr) (count : Nat)
  | lineCfg (l : Line)
  | lineWrite (l : Line) (v : Bool)
  | delayUs (n : Nat)
  | delayMs (n : Nat)
  | memRead (addr : StrAddr)
deriving DecidableEq, Repr

/-- Sparse bytes by address: addresses strictly rising, no entry that equals what an unlisted address reads as
(`Cells.wf` in Machine/Ops.lean). -/
abbrev Cells := List Host.Cell

/-- The fixture `SimRTC` (20_memory.md R66): 256 registers and the register pointer. -/
structure SimRtc where
  reg : Cells
  ptr : Byte
deriving DecidableEq, Repr

/-- The bus collaborator (20_memory.md R65 to R67): a script of answers with free answers after it, `NackBus`, or
`SimRTC` behind a bus that answers `fail` without reaching the chip where `fails` says so (the environment of
95_test_vectors.md P6; no entry left is no failure). -/
inductive BusEnv where
  | script (answers : List BusAnswer)
  | nack
  | sim (fails : List Bool) (chip : SimRtc)
deriving DecidableEq, Repr

/-- What the outside does before a step of the block (assumption log 2). -/
inductive Act where
  /-- Nothing: the block makes its next step. -/
  | run
  /-- The host asserts reset (R250, R252). -/
  | reset
  /-- The host presents a command word; it waits at the port while the block is busy (R200). -/
  | present (word : Word40)
  /-- The host writes a byte of the string memory (R42, R62). -/
  | poke (addr : StrAddr) (v : Byte)
  /-- The host takes the response: the status and, where there is one, the result (R256). -/
  | takeResponse
  /-- The host takes the four result bytes (R22, R256). -/
  | takeResults
  /-- The bus collaborator stops answering, or answers again (R208, R263). -/
  | hangBus (on : Bool)
  /-- The delay collaborator stops returning, or returns again (R208). -/
  | hangDelay (on : Bool)
  /-- A register of the RTC chip changes without the block: the chip counts, or another master writes (R33, R56). -/
  | chipSet (reg v : Byte)
  /-- The register pointer of the RTC chip changes without the block (R266). -/
  | chipPtr (ptr : Byte)
deriving DecidableEq, Repr

/-- A response as the host has taken it (R256). -/
structure Taken where
  status : Status
  results : Option Results
deriving DecidableEq, Repr

/-- The outside of the block: host, string memory, bus and delay collaborators (00_scope.md R12, R13). -/
structure Env where
  /-- The words the host presents, the one at the port first (43_sequencer.md R200). -/
  port : List Word40
  /-- What the outside does next, one act before each step; none left is `run` for ever. -/
  acts : List Act
  /-- The bus collaborator. -/
  bus : BusEnv
  /-- The bus collaborator is silent: a transaction asked of it is not answered (R208). -/
  busHung : Bool
  /-- The delay collaborator is silent: a delay asked of it does not return (R208). -/
  delayHung : Bool
  /-- The string memory (10_state.md R42, 20_memory.md R51). -/
  mem : Cells
  /-- How many free bus answers have been drawn (assumption log 4): the model's own. -/
  draws : Nat
  /-- What the host has taken from the response register, oldest first. -/
  taken : List Taken
deriving DecidableEq, Repr

/-- How far the micro-operation the sequencer is at has come (43_sequencer.md R203, R204 c). -/
inductive OpPhase where
  /-- Not begun. -/
  | fresh
  /-- Its event is recorded and its answer has not come. -/
  | issued
  /-- The transaction before it was answered `fail`: nothing is left of the command but its response. -/
  | failed
deriving DecidableEq, Repr

/-- The state of the machine. -/
structure State where
  /-- A command is in progress (10_state.md R26). -/
  busy : Bool
  /-- The command word in progress; its slices are `op` and the operand registers (R21). -/
  cmd : Word40
  /-- Sequencer position: how many micro-operations of the command are complete (R23). -/
  seq : Nat
  /-- The response register (R22). -/
  rsp : Rsp
  /-- The LCD protocol state (R27). -/
  lcdState : LcdState
  /-- The output registers of the seven LCD lines (R28). -/
  lines : Lines
  /-- Bytes read by a get command in progress (R29). -/
  scratch : Scratch
  /-- Address of the string byte `LCD_STR` is at (R29). -/
  strPtr : StrAddr
  /-- The model's own (assumption log 13): the byte last read by `LCD_STR` (the `c` of 42_lcd.md R169). -/
  held : Byte
  /-- The model's own (assumption log 13): the byte last read by `RTC_INIT` (the `b` of 41_rtc.md R133). -/
  readBack : Byte
  /-- The model's own (assumption log 5): what the next step of the command in progress has to do. -/
  phase : OpPhase
  /-- The constants of the instance; no step writes them (assumption log 14). -/
  params : Params
  /-- The events so far, oldest first (00_scope.md R5, R15, R19); the block never reads it. -/
  trace : List Event
  /-- The outside. -/
  env : Env
deriving DecidableEq, Repr

/-- Why a run stops. No command of the block stops a run (60_exceptions.md R226: an error is a completion status);
these two are the host's own faults, raised by `step` for an act of the host that the spec forbids, and both are SAFE:
the model stops where hardware would hand the host some bits. -/
inductive Fault where
  /-- SAFE. The host took the response while `rsp.valid` = 0: "a host that reads `rsp` while `rsp.valid` = 0 reads
  nothing" (10_state.md R45). Raised by the acts `takeResponse` and `takeResults`. -/
  | hostReadsNoResponse
  /-- SAFE. The host took the result bytes of a command whose status is not `OK` (10_state.md R22, 93 U7). Raised by
  the act `takeResults`. -/
  | hostReadsAbsentResults
deriving DecidableEq, Repr

/-- Why an instruction has no meaning. Every command of the table has one, so no arm of `exec` uses this. -/
inductive Refusal where
  /-- SAFE. A command the model gives no meaning, by its mnemonic; raised by no arm. -/
  | notModelled (mnemonic : String)
deriving DecidableEq, Repr

/-- The outside right after the block's reset, with nothing placed: reset itself touches nothing outside (R250), and
these are the values the model's log names (assumption log 2, 4, 6). -/
def Env.initial : Env where
  port := []
  acts := []
  bus := .script []
  busHung := false
  delayHung := false
  mem := []
  draws := 0
  taken := []

/-- The machine right after reset (10_state.md R44). `busy`, `rsp.valid`, `lcdState` and `lines` are the values R44
states; those it calls unspecified are DESIGN CHOICE (assumption log 7). -/
def State.reset : State where
  busy := false
  cmd := 0#40
  seq := 0
  rsp := { valid := false, status := .ok, results := some { r3 := 0#8, r2 := 0#8, r1 := 0#8, r0 := 0#8 } }
  lcdState := .uninitialized
  lines :=
    { rs := .unconfigured, rw := .unconfigured, en := .unconfigured, d4 := .unconfigured, d5 := .unconfigured,
      d6 := .unconfigured, d7 := .unconfigured }
  scratch := { b0 := 0#8, b1 := 0#8, b2 := 0#8, b3 := 0#8 }
  strPtr := 0#16
  held := 0#8
  readBack := 0#8
  phase := .fresh
  params := {}
  trace := []
  env := Env.initial

end Sys2Proof.Machine
end

