-- ==== Sys2Proof/Machine/Flags.lean ====
section
/-! DEFINITION. Every flag and condition of the block (10_state.md R31): the status codes, the ClockHalted flag,
`busy` with `ready`, and `lcd_state`. There are no arithmetic flags. -/

namespace Sys2Proof.Machine

/-- The code of a status, the top byte of the response word (60_exceptions.md R220). -/
def Status.code : Status → Byte
  | .ok => 0#8
  | .busError => 1#8
  | .invalidField => 2#8
  | .unimplemented => 3#8
  | .notReady => 4#8

/-- The code of `lcd_state` on its 2-bit output (10_state.md R27). -/
def LcdState.code : LcdState → BitVec 2
  | .uninitialized => 0#2
  | .initializing => 1#2
  | .ready => 2#2

/-- `dec_ch(b)` (41_rtc.md R123): bit 7 of the seconds byte, 1 means the oscillator is stopped. -/
def decCh (b : Byte) : Bool := b.getLsbD 7

/-- The result byte of `RTC_INIT` (41_rtc.md R133): ClockHalted in bit 0, bits 7:1 zero. -/
def clockHaltedByte (b : Byte) : Byte := if decCh b then 1#8 else 0#8

/-- The `ready` output of the command port (43_sequencer.md R200): not `busy`. -/
def State.ready (s : State) : Bool := !s.busy

/-- The response word `{status, r3, r2, r1, r0}` (30_encoding.md R71); absent as a whole where
the result bytes are (DESIGN CHOICE, assumption log 18). -/
def responseWord (st : Status) (res : Option Results) : Option Word40 :=
  res.map fun r => packWord st.code r.r3 r.r2 r.r1 r.r0

/-- What the host reads of the response register (10_state.md R22, R45): nothing while it is not valid. -/
def State.hostReads (s : State) : Option Taken :=
  if s.rsp.valid then some { status := s.rsp.status, results := s.rsp.results } else none

end Sys2Proof.Machine
end

