-- ==== Sys2Proof/Machine/Ops.lean ====
section
/-! DEFINITION. The operations every command is made of: sparse memory, lines, the trace, the primitives of
00_scope.md R15 as micro-operations, completion and abort, acceptance, and reset. -/

namespace Sys2Proof.Machine

/-! ### Sparse bytes -/

/-- The byte at an address; `dflt` where none is listed. -/
def Cells.read (dflt : Byte) : Cells → Nat → Byte
  | [], _ => dflt
  | (k, v) :: rest, a => if k = a then v else Cells.read dflt rest a

/-- Put a byte at an address, the list kept rising; the value an unlisted address reads as is not listed. -/
def Cells.write (dflt : Byte) : Cells → Nat → Byte → Cells
  | [], a, b => if b = dflt then [] else [(a, b)]
  | (k, v) :: rest, a, b =>
    if a < k then (if b = dflt then (k, v) :: rest else (a, b) :: (k, v) :: rest)
    else if a = k then (if b = dflt then rest else (a, b) :: rest)
    else (k, v) :: Cells.write dflt rest a b

/-- The canonical form, from a least address on: addresses rising and below `bound`, no entry equal to `dflt`. -/
def Cells.wfFrom (dflt : Byte) (bound : Nat) : Nat → Cells → Bool
  | _, [] => true
  | lo, (k, v) :: rest =>
    decide (lo ≤ k) && decide (k < bound) && !(v == dflt) && Cells.wfFrom dflt bound (k + 1) rest

/-- The canonical form of sparse bytes over the addresses below `bound`. -/
def Cells.wf (dflt : Byte) (bound : Nat) (c : Cells) : Bool := Cells.wfFrom dflt bound 0 c

/-- The string memory's canonical form: addresses 0 to 0xFFFF (20_memory.md R51). -/
def Memory.wf (m : Cells) : Bool := Cells.wf Config.unlistedStringByte 65536 m

/-- The byte the string memory holds at an address (20_memory.md R64). -/
def Memory.read (m : Cells) (a : StrAddr) : Byte := Cells.read Config.unlistedStringByte m a.toNat

/-- The host's write of a byte of the string memory (10_state.md R42); the block itself never writes it. -/
def Memory.write (m : Cells) (a : StrAddr) (v : Byte) : Cells := Cells.write Config.unlistedStringByte m a.toNat v

/-! ### The bus collaborator -/

/-- The two transactions of the bus collaborator (00_scope.md R13). -/
inductive BusReq where
  | write (dev : DevAddr) (bytes : List Byte)
  | read (dev : DevAddr) (count : Nat)
deriving DecidableEq, Repr

/-- The event a transaction records (00_scope.md R15). -/
def BusReq.event : BusReq → Event
  | .write dev bytes => .busWrite dev bytes
  | .read dev count => .busRead dev count

/-- A register of the fixture `SimRTC` (20_memory.md R66). -/
def SimRtc.regAt (c : SimRtc) (a : Byte) : Byte := Cells.read Config.unlistedChipByte c.reg a.toNat

/-- Set a register of the fixture `SimRTC`. -/
def SimRtc.setReg (c : SimRtc) (a v : Byte) : SimRtc :=
  { c with reg := Cells.write Config.unlistedChipByte c.reg a.toNat v }

/-- `SimRTC`'s registers are in canonical form over 256 addresses. -/
def SimRtc.wf (c : SimRtc) : Bool := Cells.wf Config.unlistedChipByte 256 c.reg

/-- How `SimRTC` answers (20_memory.md R66), `own` being its device address: it takes the three shapes of transaction
R66 lists and fails any transaction to another device. The shapes R66 does not list, which the block never asks for
(R56), fail (DESIGN CHOICE, assumption log 16). -/
def SimRtc.answer (own : DevAddr) (q : BusReq) (c : SimRtc) : BusAnswer × SimRtc :=
  match q with
  | .write dev [a] => if dev = own then (.ok 0#8, { c with ptr := a }) else (.fail, c)
  | .write dev [a, v] => if dev = own then (.ok 0#8, { c.setReg a v with ptr := a + 1#8 }) else (.fail, c)
  | .read dev 1 => if dev = own then (.ok (c.regAt c.ptr), { c with ptr := c.ptr + 1#8 }) else (.fail, c)
  | _ => (.fail, c)

/-- The bus collaborator's answer to one transaction, and the outside after it (20_memory.md R65 to R67). -/
def Env.answer (own : DevAddr) (q : BusReq) (e : Env) : BusAnswer × Env :=
  match e.bus with
  | .script (a :: rest) => (a, { e with bus := .script rest })
  | .script [] => (Config.freeBusAnswer e.draws, { e with draws := e.draws + 1 })
  | .nack => (.fail, e)
  | .sim (true :: fs) chip => (.fail, { e with bus := .sim fs chip })
  | .sim (false :: fs) chip =>
    ((chip.answer own q).1, { e with bus := .sim fs (chip.answer own q).2 })
  | .sim [] chip =>
    ((chip.answer own q).1, { e with bus := .sim [] (chip.answer own q).2 })

/-! ### Lines -/

/-- The level a driven line holds (10_state.md R28). -/
def LineLevel.ofBool (v : Bool) : LineLevel := if v then .high else .low

/-- `line[l]` (10_state.md R28). -/
def Lines.get (ls : Lines) : Line → LineLevel
  | .rs => ls.rs
  | .rw => ls.rw
  | .en => ls.en
  | .d4 => ls.d4
  | .d5 => ls.d5
  | .d6 => ls.d6
  | .d7 => ls.d7

/-- Write the output register of one line. -/
def Lines.set (ls : Lines) (l : Line) (v : LineLevel) : Lines :=
  match l with
  | .rs => { ls with rs := v }
  | .rw => { ls with rw := v }
  | .en => { ls with en := v }
  | .d4 => { ls with d4 := v }
  | .d5 => { ls with d5 := v }
  | .d6 => { ls with d6 := v }
  | .d7 => { ls with d7 := v }

/-- The seven lines in the order the document lists them (42_lcd.md R165). -/
def allLines : List Line := [.rs, .rw, .en, .d4, .d5, .d6, .d7]

/-! ### The trace and the sequencer position -/

/-- Append an event to the trace. -/
def State.record (e : Event) (s : State) : State := { s with trace := s.trace ++ [e] }

/-- A micro-operation is complete: `seq` increases by one (43_sequencer.md R203). -/
def State.advance (s : State) : State := { s with seq := s.seq + 1, phase := .fresh }

/-- Issue a micro-operation that has an answer: its event is recorded once, however long the answer takes. -/
def State.issue (e : Event) (s : State) : State := if s.phase = .issued then s else s.record e

/-- The micro-operation issued is not answered in this step (43_sequencer.md R203, R208): the block waits. -/
def State.await (s : State) : State := { s with phase := .issued }

/-- The transaction issued is answered `fail`: it is complete as one answered `ok` is (43_sequencer.md R203), and the
only step left of the command is its response (R204 c, R207). -/
def State.failOp (s : State) : State := { s with seq := s.seq + 1, phase := .failed }

/-- The outside after one of its collaborators has answered. -/
def State.withEnv (e : Env) (s : State) : State := { s with env := e }

/-- Write the output register of a line (10_state.md R28). -/
def State.setLine (l : Line) (v : LineLevel) (s : State) : State := { s with lines := s.lines.set l v }

/-- Write `lcd_state` (10_state.md R27). -/
def State.setLcd (v : LcdState) (s : State) : State := { s with lcdState := v }

/-! ### Completion and abort -/

/-- `respond` (43_sequencer.md R205): in one step `rsp`, `rsp.valid` = 1, `busy` = 0 and the event `Response`. -/
def respond (st : Status) (res : Option Results) (s : State) : State :=
  { s with busy := false, phase := .fresh, rsp := { valid := true, status := st, results := res } }.record
    (.response st res)

/-- Successful completion with the four result bytes. -/
def respondOk (res : Results) (s : State) : State := respond .ok (some res) s

/-- Result bytes all 0: what `respond(OK, 0, 0, 0, 0)` reports. -/
def Results.zero : Results := { r3 := 0#8, r2 := 0#8, r1 := 0#8, r0 := 0#8 }

/-- `raise S`, the block's form of taking an exception (43_sequencer.md R206, 60_exceptions.md R226): no further
micro-operation, completion with status `S` and no result. Nothing is saved, no mode changes, no handler is entered,
nothing is undone; and there is no return from it (R228): the block is idle and takes the next command. -/
def raise (st : Status) (s : State) : State := respond st none s

/-- The ready check (42_lcd.md R162) in front of a command's micro-operations. `lcd_state` cannot change while one of
the six commands runs, so testing it again at a later position is the same test (assumption log 11). -/
def ifReady (body : State → State) (s : State) : State :=
  if s.lcdState = .ready then body s else raise .notReady s

/-! ### Micro-operations -/

/-- Where the byte a `BusRead` answers is kept: `scratch[k]` (10_state.md R29), or the model's `readBack`. -/
inductive ReadDest where
  | scratch0
  | scratch1
  | scratch2
  | scratch3
  | readBack
deriving DecidableEq, Repr

/-- The primitives of 00_scope.md R15, each one event; `respond` is apart. -/
inductive MicroOp where
  | busInit
  | busWrite (bytes : List Byte)
  | busRead (dest : ReadDest)
  | lineCfg (l : Line)
  | lineWrite (l : Line) (v : Bool)
  | delayUs (n : Nat)
  | delayMs (n : Nat)
  | memRead (addr : StrAddr)
deriving DecidableEq, Repr

/-- Keep a byte the bus has answered. -/
def State.keep (dest : ReadDest) (b : Byte) (s : State) : State :=
  match dest with
  | .scratch0 => { s with scratch := { s.scratch with b0 := b } }
  | .scratch1 => { s with scratch := { s.scratch with b1 := b } }
  | .scratch2 => { s with scratch := { s.scratch with b2 := b } }
  | .scratch3 => { s with scratch := { s.scratch with b3 := b } }
  | .readBack => { s with readBack := b }

/-- One bus transaction: issued, and when the collaborator answers, `deliver` takes the byte and the block goes on, or
the failure is kept for the next step (`runBus`); no retry and no undoing (41_rtc.md R129, 20_memory.md R65). -/
def transact (q : BusReq) (deliver : Byte → State → State) (s : State) : State :=
  if s.env.busHung then (s.issue q.event).await
  else
    match s.env.answer s.params.devAddr q with
    | (.ok b, e) => (deliver b ((s.issue q.event).withEnv e)).advance
    | (.fail, e) => ((s.issue q.event).withEnv e).failOp

/-- One delay request: complete when the collaborator returns (60_exceptions.md R233). -/
def delay (e : Event) (s : State) : State :=
  if s.env.delayHung then (s.issue e).await else (s.issue e).advance

/-- One micro-operation of the command in progress. -/
def perform (op : MicroOp) (s : State) : State :=
  match op with
  | .busInit => (s.record .busInit).advance
  | .busWrite bytes => transact (.write s.params.devAddr bytes) (fun _ t => t) s
  | .busRead dest => transact (.read s.params.devAddr 1) (fun b t => t.keep dest b) s
  | .lineCfg l => ((s.setLine l .configured).record (.lineCfg l)).advance
  | .lineWrite l v => ((s.setLine l (.ofBool v)).record (.lineWrite l v)).advance
  | .delayUs n => delay (.delayUs n) s
  | .delayMs n => delay (.delayMs n) s
  | .memRead addr => ({ s with held := Memory.read s.env.mem addr }.record (.memRead addr)).advance

/-- The event a micro-operation records, `dev` being the device address (R15). -/
def MicroOp.event (dev : DevAddr) : MicroOp → Event
  | .busInit => .busInit
  | .busWrite bytes => .busWrite dev bytes
  | .busRead _ => .busRead dev 1
  | .lineCfg l => .lineCfg l
  | .lineWrite l v => .lineWrite l v
  | .delayUs n => .delayUs n
  | .delayMs n => .delayMs n
  | .memRead addr => .memRead addr

/-- The step of a command whose micro-operations are the list `ops` (43_sequencer.md R203): the one at position `k`,
and after the last the completion `done`. -/
def runAt (k : Nat) (ops : List MicroOp) (done : State → State) (s : State) : State :=
  match ops[k]? with
  | some op => perform op s
  | none => done s

/-- The same at the position the sequencer is at. -/
def runSeq (ops : List MicroOp) (done : State → State) (s : State) : State := runAt s.seq ops done s

/-- The same in a command that makes transactions: after one that failed the step is the response with `BUS_ERROR`
and no later micro-operation is made (41_rtc.md R129, 43_sequencer.md R204 c, R206). -/
def runBus (ops : List MicroOp) (done : State → State) (s : State) : State :=
  if s.phase = .failed then raise .busError s else runSeq ops done s

/-! ### Acceptance and reset -/

/-- What acceptance writes (43_sequencer.md R201): `cmd`, `busy`, `rsp.valid`, `seq`; and the event `Accept`. -/
def latchCommand (w : Word40) (s : State) : State :=
  { s with cmd := w, busy := true, seq := 0, phase := .fresh, rsp := { s.rsp with valid := false } }.record (.accept w)

/-- Dispatch takes no step (43_sequencer.md R202). The one rule that begins with an action that is no micro-operation
is `LCD_INIT`'s `lcd_state <- Initializing`, which the table of 42_lcd.md R161 puts at its acceptance (DEDUCED,
assumption log 9). -/
def enterCommand (s : State) : State :=
  match decode s.cmd with
  | .instr .lcdInit => s.setLcd .initializing
  | _ => s

/-- The step of an idle block to which a word is presented: acceptance and dispatch. -/
def accept (w : Word40) (s : State) : State := enterCommand (latchCommand w s)

/-- Reset (70_reset_and_hazards.md R250, R252): the block's state as after reset, the event `Reset`, nothing outside
touched, the command in progress dropped without a response. -/
def resetBlock (s : State) : State :=
  { State.reset with params := s.params, trace := s.trace, env := s.env }.record .reset

end Sys2Proof.Machine
end

