-- ==== Sys2Proof/Machine/Operands.lean ====
section
/-! DEFINITION. Operand bytes as the records they carry (10_state.md R24, R25), the range checks on them (41_rtc.md
R135, R138), and the command's operand registers (10_state.md R21). -/

namespace Sys2Proof

/-- The code of a format in an operand or result byte (10_state.md R24). -/
def TimeFormat.code : TimeFormat → Byte
  | .am => 0#8
  | .pm => 1#8
  | .hour24 => 2#8

/-- The format a byte spells; 3 to 255 are not a format (10_state.md R24, 30_encoding.md R78). -/
def TimeFormat.ofByte (b : Byte) : Option TimeFormat :=
  if b = 0#8 then some .am else if b = 1#8 then some .pm else if b = 2#8 then some .hour24 else none

namespace Machine

/-! The operand registers are slices of `cmd` (10_state.md R21). -/

/-- `op`. -/
def State.op (s : State) : Byte := opField s.cmd
/-- `a0`. -/
def State.a0 (s : State) : Byte := a0Field s.cmd
/-- `a1`. -/
def State.a1 (s : State) : Byte := a1Field s.cmd
/-- `a2`. -/
def State.a2 (s : State) : Byte := a2Field s.cmd
/-- `a3`. -/
def State.a3 (s : State) : Byte := a3Field s.cmd

/-- The hours an hour format admits (10_state.md R24): 1 to 12 with AM and PM, 0 to 23 with Hour24. -/
def hoursLegal (h : Byte) : TimeFormat → Bool
  | .am => decide (1 ≤ h.toNat ∧ h.toNat ≤ 12)
  | .pm => decide (1 ≤ h.toNat ∧ h.toNat ≤ 12)
  | .hour24 => decide (h.toNat ≤ 23)

/-- `valid_time(s, m, h, f)` (41_rtc.md R135). -/
def validTime (s m h f : Byte) : Bool :=
  decide (s.toNat ≤ 59) && decide (m.toNat ≤ 59) &&
    match TimeFormat.ofByte f with
    | some fmt => hoursLegal h fmt
    | none => false

/-- `valid_date(d, mo, y, w)` (41_rtc.md R138): ranges only, no calendar. -/
def validDate (d mo y w : Byte) : Bool :=
  decide (1 ≤ d.toNat ∧ d.toNat ≤ 31) && decide (1 ≤ mo.toNat ∧ mo.toNat ≤ 12) && decide (y.toNat ≤ 99) &&
    decide (1 ≤ w.toNat ∧ w.toNat ≤ 7)

end Machine
end Sys2Proof
end

