-- ==== Sys2Proof/Machine/Bcd.lean ====
section
/-! DEFINITION. The BCD codec and its two commands (40_bcd.md). -/

namespace Sys2Proof.Machine

/-- `bin_to_bcd` (40_bcd.md R100), a partial function: no value above 99. -/
def binToBcd (n : Nat) : Option Byte :=
  if n ≤ 99 then some (BitVec.ofNat 8 (((n / 10) <<< 4) ||| (n % 10))) else none

/-- `hi_nibble` (00_scope.md R14). -/
def hiNibble (b : Byte) : BitVec 4 := b.extractLsb' 4 4
/-- `lo_nibble` (00_scope.md R14). -/
def loNibble (b : Byte) : BitVec 4 := b.extractLsb' 0 4

/-- `bcd_to_bin` (40_bcd.md R101): the formula on every byte, 0 to 165. -/
def bcdToBin (b : Byte) : Byte := BitVec.ofNat 8 ((hiNibble b).toNat * 10 + (loNibble b).toNat)

/-- A valid packed BCD byte: both nibbles at most 9 (40_bcd.md R101). -/
def validBcd (b : Byte) : Bool := decide ((hiNibble b).toNat ≤ 9) && decide ((loNibble b).toNat ≤ 9)

/-- The step of `BIN2BCD n` (40_bcd.md R104): its only micro-operation is the response. -/
def bin2bcdStep (n : Byte) (s : State) : State :=
  match binToBcd n.toNat with
  | some b => respondOk { Results.zero with r0 := b } s
  | none => raise .invalidField s

/-- `BIN2BCD n` (40_bcd.md R104). -/
def execBin2bcd (n : Byte) (s : State) : Host.Outcome State Fault Refusal := .next (bin2bcdStep n s)

/-- `BCD2BIN b` (40_bcd.md R105): it cannot fail. -/
def execBcd2bin (b : Byte) (s : State) : Host.Outcome State Fault Refusal :=
  .next (respondOk { Results.zero with r0 := bcdToBin b } s)

end Sys2Proof.Machine
end

