-- ==== Sys2Proof/Machine/Lcd.lean ====
section
/-! DEFINITION. The LCD nibble serializer, the power-on sequence and the seven LCD commands (42_lcd.md). -/

namespace Sys2Proof.Machine

/-! ### The two procedures -/

/-- `Nibble(v)` (42_lcd.md R163): D4 to D7 from bits 0 to 3 of `v`, then the EN pulse. -/
def nibbleOps (p : Params) (v : Byte) : List MicroOp :=
  [.lineWrite .d4 (v.getLsbD 0), .lineWrite .d5 (v.getLsbD 1), .lineWrite .d6 (v.getLsbD 2),
   .lineWrite .d7 (v.getLsbD 3), .lineWrite .en true, .delayUs p.tEnHighUs, .lineWrite .en false, .delayUs p.tEnLowUs]

/-- `SendByte(rs, b)` (42_lcd.md R164): RS, RW low, the high nibble, the low nibble. -/
def sendByteOps (p : Params) (rs : Bool) (b : Byte) : List MicroOp :=
  [.lineWrite .rs rs, .lineWrite .rw false] ++ nibbleOps p ((hiNibble b).setWidth 8) ++
    nibbleOps p ((loNibble b).setWidth 8)

/-! ### LCD_INIT -/

/-- Phases P0 and P1 (42_lcd.md R166): the seven lines configured, then all driven low. -/
def lineSetupOps : List MicroOp :=
  allLines.map MicroOp.lineCfg ++ allLines.map (fun l => MicroOp.lineWrite l false)

/-- Phases P2 to P8: the power-on wait and the 4-bit handshake. -/
def handshakeOps (p : Params) : List MicroOp :=
  [.delayMs p.tPowerOnMs] ++ nibbleOps p 0x3#8 ++ [.delayMs p.tInit1Ms] ++ nibbleOps p 0x3#8 ++
    [.delayUs p.tInit2Us] ++ nibbleOps p 0x3#8 ++ nibbleOps p 0x2#8

/-- Phases P9 to P13: function set, display on, clear with its settle wait, entry mode. -/
def setupCommandOps (p : Params) : List MicroOp :=
  sendByteOps p false p.cmdFunctionSet ++ sendByteOps p false p.cmdDisplayOnCursorOn ++
    sendByteOps p false p.cmdClear ++ [.delayMs p.tSettleMs] ++ sendByteOps p false p.cmdEntryModeInc

/-- The 122 micro-operations of `LCD_INIT` (42_lcd.md R165, R166). -/
def lcdInitOps (p : Params) : List MicroOp := lineSetupOps ++ handshakeOps p ++ setupCommandOps p

/-- Phase P14: `lcd_state <- Ready` and the response. -/
def lcdInitDone (s : State) : State := respondOk Results.zero (s.setLcd .ready)

/-- The step of `LCD_INIT`. Its first action is `lcd_state <- Initializing`; it holds that value until P14. -/
def lcdInitStep (s : State) : State :=
  runSeq (lcdInitOps s.params) lcdInitDone (s.setLcd .initializing)

/-- `LCD_INIT` (42_lcd.md R165): no ready check, and it cannot fail (R175). -/
def execLcdInit (s : State) : Host.Outcome State Fault Refusal := .next (lcdInitStep s)

/-! ### The six other commands -/

/-- A command that sends the micro-operations `ops` and completes with no result, under the ready check. -/
def lcdSend (ops : List MicroOp) (s : State) : State := ifReady (runSeq ops (respondOk Results.zero)) s

/-- `LCD_CMD b` (42_lcd.md R167): the byte as it is, no settle time (70_reset_and_hazards.md R260). -/
def execLcdCmd (b : Byte) (s : State) : Host.Outcome State Fault Refusal :=
  .next (lcdSend (sendByteOps s.params false b) s)

/-- `LCD_CHAR b` (42_lcd.md R168): any byte, 0x00 included. -/
def execLcdChar (b : Byte) (s : State) : Host.Outcome State Fault Refusal :=
  .next (lcdSend (sendByteOps s.params true b) s)

/-- Micro-operations per character of a string: one `MemRead` and the 18 of `SendByte` (42_lcd.md R169). -/
def strPeriod : Nat := 19

/-- The address the loop of `LCD_STR` reads next: the operand at first, then the next address, modulo 2^16
(20_memory.md R51). -/
def nextStrPtr (addr : StrAddr) (s : State) : StrAddr := if s.seq = 0 then addr else s.strPtr + 1#16

/-- The loop body of `LCD_STR` (42_lcd.md R169) at the sequencer's position in it: `MemRead`; then the response when
the byte read is zero, and the byte's `SendByte` otherwise. The pointer moves on with the next `MemRead`
(assumption log 12). -/
def lcdStrStep (addr : StrAddr) (s : State) : State :=
  match s.seq % strPeriod with
  | 0 => perform (.memRead (nextStrPtr addr s)) { s with strPtr := nextStrPtr addr s }
  | k + 1 =>
    if s.held = 0x00#8 then respondOk Results.zero s
    else runAt k (sendByteOps s.params true s.held) (respondOk Results.zero) s

/-- `LCD_STR addr` (42_lcd.md R169): the test comes before the send, and the loop has no bound. -/
def execLcdStr (addr : StrAddr) (s : State) : Host.Outcome State Fault Refusal := .next (ifReady (lcdStrStep addr) s)

/-- `LCD_HOME` (42_lcd.md R170). -/
def execLcdHome (s : State) : Host.Outcome State Fault Refusal :=
  .next (lcdSend (sendByteOps s.params false s.params.cmdReturnHome ++ [.delayMs s.params.tSettleMs]) s)

/-- `LCD_CLEAR` (42_lcd.md R171). -/
def execLcdClear (s : State) : Host.Outcome State Fault Refusal :=
  .next (lcdSend (sendByteOps s.params false s.params.cmdClear ++ [.delayMs s.params.tSettleMs]) s)

/-- `cursor_cmd(row, column)` (42_lcd.md R172, R173): the subtraction wraps at 8 bits, the column is not checked; no
byte for a row other than 1 and 2. -/
def cursorCmd (row column : Byte) : Option Byte :=
  if row = 1#8 then some ((column - 1#8) ||| 0x80#8)
  else if row = 2#8 then some ((column - 1#8) ||| 0xC0#8)
  else none

/-- The micro-operations of `LCD_CURSOR`: none for a row that is ignored. -/
def cursorOps (p : Params) (row column : Byte) : List MicroOp :=
  match cursorCmd row column with
  | some b => sendByteOps p false b
  | none => []

/-- `LCD_CURSOR row, column` (42_lcd.md R172): an ignored row completes `OK`; the ready check comes first. -/
def execLcdCursor (row column : Byte) (s : State) : Host.Outcome State Fault Refusal :=
  .next (lcdSend (cursorOps s.params row column) s)

end Sys2Proof.Machine
end

