-- ==== Sys2Proof/Machine/Rtc.lean ====
section
/-! DEFINITION. The RTC register codec, the two bus procedures and the five RTC commands (41_rtc.md). -/

namespace Sys2Proof.Machine

/-! ### The register codec -/

/-- `enc_seconds` (41_rtc.md R121), for 0 to 59: CH forced 0. -/
def encSeconds (s : Byte) : Option Byte :=
  if s.toNat ≤ 59 then (binToBcd s.toNat).map (· &&& 0x7F#8) else none

/-- `dec_seconds` (41_rtc.md R122): the seven data bits are decoded, CH is left out. -/
def decSeconds (b : Byte) : Byte := bcdToBin (b &&& 0x7F#8)

/-- The bits `enc_hours` sets for a format (41_rtc.md R125): bit 6 in 12-hour mode, and bit 5 for PM. -/
def formatBits : TimeFormat → Byte
  | .am => 0x40#8
  | .pm => 0x60#8
  | .hour24 => 0x00#8

/-- `enc_hours` (41_rtc.md R125), for a legal pair. -/
def encHours (h : Byte) (fmt : TimeFormat) : Option Byte :=
  if hoursLegal h fmt then (binToBcd h.toNat).map (· ||| formatBits fmt) else none

/-- `dec_hours` (41_rtc.md R127): exactly bits 6 and 5 are cleared in 12-hour mode, nothing in 24-hour mode. -/
def decHours (b : Byte) : Byte × TimeFormat :=
  if b.getLsbD 6 then (bcdToBin (b &&& 0x9F#8), if b.getLsbD 5 then .pm else .am)
  else (bcdToBin b, .hour24)

/-! ### The bus procedures -/

/-- `RegWrite(reg, v)` (41_rtc.md R131): one bus write of two bytes, the address first. -/
def regWriteOps (reg v : Byte) : List MicroOp := [.busWrite [reg, v]]

/-- `RegRead(reg)` (41_rtc.md R132): a bus write of the address, then a bus read of one byte. -/
def regReadOps (reg : Byte) (dest : ReadDest) : List MicroOp := [.busWrite [reg], .busRead dest]

/-! ### RTC_INIT -/

/-- The micro-operations of `RTC_INIT` (41_rtc.md R133): write, then read back. -/
def rtcInitOps (p : Params) : List MicroOp :=
  .busInit :: (regWriteOps p.regSeconds 0x00#8 ++ regReadOps p.regSeconds .readBack)

/-- The completion of `RTC_INIT`: ClockHalted, with status `OK` whatever it is (60_exceptions.md R225). -/
def rtcInitDone (s : State) : State := respondOk { Results.zero with r0 := clockHaltedByte s.readBack } s

/-- `RTC_INIT` (41_rtc.md R133). -/
def execRtcInit (s : State) : Host.Outcome State Fault Refusal :=
  .next (runBus (rtcInitOps s.params) rtcInitDone s)

/-! ### RTC_SET_TIME -/

/-- The micro-operations of `RTC_SET_TIME` (41_rtc.md R134); none when an operand is out of range (R135). -/
def setTimeOps (p : Params) (seconds minutes hours fmt : Byte) : Option (List MicroOp) :=
  if validTime seconds minutes hours fmt then do
    let f ← TimeFormat.ofByte fmt
    let bs ← encSeconds seconds
    let bm ← binToBcd minutes.toNat
    let bh ← encHours hours f
    some (regWriteOps p.regSeconds bs ++ regWriteOps p.regMinutes bm ++ regWriteOps p.regHours bh)
  else none

/-- A set command: its writes and then `OK` with no result, or `INVALID_FIELD` before any event. The operands cannot
change while it runs (10_state.md R21), so testing them again at a later position is the same test (assumption log
11). -/
def setStep (ops : Option (List MicroOp)) (s : State) : State :=
  match ops with
  | some l => runBus l (respondOk Results.zero) s
  | none => raise .invalidField s

/-- `RTC_SET_TIME` (41_rtc.md R134). -/
def execRtcSetTime (seconds minutes hours fmt : Byte) (s : State) : Host.Outcome State Fault Refusal :=
  .next (setStep (setTimeOps s.params seconds minutes hours fmt) s)

/-! ### RTC_GET_TIME -/

/-- The micro-operations of `RTC_GET_TIME` (41_rtc.md R136). Which scratch byte holds which register is the model's choice
(DESIGN CHOICE, assumption log 26): seconds in `scratch[0]`, minutes in `scratch[1]`, hours in `scratch[2]`. -/
def getTimeOps (p : Params) : List MicroOp :=
  regReadOps p.regSeconds .scratch0 ++ regReadOps p.regMinutes .scratch1 ++ regReadOps p.regHours .scratch2

/-- The result of `RTC_GET_TIME` from the three bytes read; whatever they are, they are decoded (D20). -/
def getTimeResults (bs bm bh : Byte) : Results where
  r3 := (decHours bh).2.code
  r2 := (decHours bh).1
  r1 := bcdToBin bm
  r0 := decSeconds bs

/-- The completion of `RTC_GET_TIME`. -/
def getTimeDone (s : State) : State := respondOk (getTimeResults s.scratch.b0 s.scratch.b1 s.scratch.b2) s

/-- `RTC_GET_TIME` (41_rtc.md R136). -/
def execRtcGetTime (s : State) : Host.Outcome State Fault Refusal :=
  .next (runBus (getTimeOps s.params) getTimeDone s)

/-! ### RTC_SET_DATE -/

/-- The micro-operations of `RTC_SET_DATE` (41_rtc.md R137): date, month, year, weekday; none when an operand is out
of range (R138). -/
def setDateOps (p : Params) (day month year weekday : Byte) : Option (List MicroOp) :=
  if validDate day month year weekday then do
    let bd ← binToBcd day.toNat
    let bo ← binToBcd month.toNat
    let bY ← binToBcd year.toNat
    let bw ← binToBcd weekday.toNat
    some (regWriteOps p.regDate bd ++ regWriteOps p.regMonth bo ++ regWriteOps p.regYear bY ++
      regWriteOps p.regWeekday bw)
  else none

/-- `RTC_SET_DATE` (41_rtc.md R137). -/
def execRtcSetDate (day month year weekday : Byte) (s : State) : Host.Outcome State Fault Refusal :=
  .next (setStep (setDateOps s.params day month year weekday) s)

/-! ### RTC_GET_DATE -/

/-- The micro-operations of `RTC_GET_DATE` (41_rtc.md R139): the same four registers in the same order. Which scratch
byte holds which register is the model's choice (DESIGN CHOICE, assumption log 26): date in `scratch[0]`, month in
`scratch[1]`, year in `scratch[2]`, weekday in `scratch[3]`. -/
def getDateOps (p : Params) : List MicroOp :=
  regReadOps p.regDate .scratch0 ++ regReadOps p.regMonth .scratch1 ++ regReadOps p.regYear .scratch2 ++
    regReadOps p.regWeekday .scratch3

/-- The result of `RTC_GET_DATE` from the four bytes read, each decoded whole. -/
def getDateResults (bd bo bY bw : Byte) : Results where
  r3 := bcdToBin bw
  r2 := bcdToBin bY
  r1 := bcdToBin bo
  r0 := bcdToBin bd

/-- The completion of `RTC_GET_DATE`. -/
def getDateDone (s : State) : State :=
  respondOk (getDateResults s.scratch.b0 s.scratch.b1 s.scratch.b2 s.scratch.b3) s

/-- `RTC_GET_DATE` (41_rtc.md R139). -/
def execRtcGetDate (s : State) : Host.Outcome State Fault Refusal :=
  .next (runBus (getDateOps s.params) getDateDone s)

end Sys2Proof.Machine
end

