-- ==== Sys2Proof/Machine/Dispatch.lean ====
section
/-! DEFINITION. Dispatch (43_sequencer.md R202): one arm per command, each one call of its meaning. `exec i s` is the
step the block makes at its sequencer position when the command in progress is `i` (R207). -/

namespace Sys2Proof.Machine

def exec (i : Instr) (s : State) : Host.Outcome State Fault Refusal :=
  match i with
  -- 40_bcd.md
  | .bin2bcd n => Sys2Proof.Machine.execBin2bcd n s
  | .bcd2bin b => Sys2Proof.Machine.execBcd2bin b s
  -- 41_rtc.md
  | .rtcInit => Sys2Proof.Machine.execRtcInit s
  | .rtcSetTime seconds minutes hours fmt => Sys2Proof.Machine.execRtcSetTime seconds minutes hours fmt s
  | .rtcGetTime => Sys2Proof.Machine.execRtcGetTime s
  | .rtcSetDate day month year weekday => Sys2Proof.Machine.execRtcSetDate day month year weekday s
  | .rtcGetDate => Sys2Proof.Machine.execRtcGetDate s
  -- 42_lcd.md
  | .lcdInit => Sys2Proof.Machine.execLcdInit s
  | .lcdCmd b => Sys2Proof.Machine.execLcdCmd b s
  | .lcdChar b => Sys2Proof.Machine.execLcdChar b s
  | .lcdStr addr => Sys2Proof.Machine.execLcdStr addr s
  | .lcdHome => Sys2Proof.Machine.execLcdHome s
  | .lcdClear => Sys2Proof.Machine.execLcdClear s
  | .lcdCursor row column => Sys2Proof.Machine.execLcdCursor row column s

end Sys2Proof.Machine
end

