-- ==== Sys2Proof/Machine/Sequencer.lean ====
section
/-! DEFINITION. What one step of the block is (43_sequencer.md R207), what the outside does between its steps
(00_scope.md R12, 70_reset_and_hazards.md R250, R256), and a command run from its position to its response. -/

namespace Sys2Proof.Machine

/-- The command in progress moves by one micro-operation or completes (43_sequencer.md R202, R203): its rule is
selected by `op` alone, and a reserved opcode selects `raise UNIMPLEMENTED` (30_encoding.md R80). -/
def commandStep (s : State) : Host.Outcome State Fault Refusal :=
  match decode s.cmd with
  | .instr i => exec i s
  | .reserved _ => .next (raise .unimplemented s)

/-- An idle block accepts the word at the port (43_sequencer.md R200, R201); with no word presented it makes no event
and waits (70_reset_and_hazards.md R251). -/
def idleStep (s : State) : State :=
  match s.env.port with
  | [] => s
  | w :: rest => accept w { s with env := { s.env with port := rest } }

/-- The step of the block (43_sequencer.md R207). -/
def blockStep (s : State) : Host.Outcome State Fault Refusal :=
  if s.busy then commandStep s else .next (idleStep s)

/-- The RTC chip changes without the block (assumption log 2); nothing where the bus is not the `SimRTC` fixture. -/
def Env.touchChip (f : SimRtc → SimRtc) (e : Env) : Env :=
  match e.bus with
  | .sim fs chip => { e with bus := .sim fs (f chip) }
  | _ => e

/-- The host takes the response (70_reset_and_hazards.md R256); reading it while it is not valid is the host's fault
(10_state.md R45). -/
def takeResponse (s : State) : Host.Outcome State Fault Refusal :=
  match s.hostReads with
  | some t => .next { s with env := { s.env with taken := s.env.taken ++ [t] } }
  | none => .fault .hostReadsNoResponse

/-- The host takes the result bytes; a command that failed has none (10_state.md R22). -/
def takeResults (s : State) : Host.Outcome State Fault Refusal :=
  match s.hostReads with
  | some { status := st, results := some r } =>
    .next { s with env := { s.env with taken := s.env.taken ++ [{ status := st, results := some r }] } }
  | some { status := _, results := none } => .fault .hostReadsAbsentResults
  | none => .fault .hostReadsNoResponse

/-- One act of the outside; `run` is the block's own step. -/
def applyAct (a : Act) (s : State) : Host.Outcome State Fault Refusal :=
  match a with
  | .run => blockStep s
  | .reset => .next (resetBlock s)
  | .present w => .next { s with env := { s.env with port := s.env.port ++ [w] } }
  | .poke addr v => .next { s with env := { s.env with mem := Memory.write s.env.mem addr v } }
  | .takeResponse => takeResponse s
  | .takeResults => takeResults s
  | .hangBus on => .next { s with env := { s.env with busHung := on } }
  | .hangDelay on => .next { s with env := { s.env with delayHung := on } }
  | .chipSet reg v => .next { s with env := s.env.touchChip (fun c => c.setReg reg v) }
  | .chipPtr ptr => .next { s with env := s.env.touchChip (fun c => { c with ptr := ptr }) }

/-- The next act of the outside is used up. -/
def State.dropAct (s : State) : State := { s with env := { s.env with acts := s.env.acts.tail } }

/-- `n` steps of the command `i` in progress, fewer if it responds before: the command as one big step, which
43_sequencer.md R207 allows beside the single steps. -/
def runCommand (i : Instr) : Nat → State → Host.Outcome State Fault Refusal
  | 0, s => .next s
  | n + 1, s =>
    if s.busy then
      match exec i s with
      | .next t => runCommand i n t
      | .fault r => .fault r
      | .refused r => .refused r
    else .next s

end Sys2Proof.Machine
end

