-- ==== Sys2Proof/Machine/Step.lean ====
section
/-! DEFINITION. The machine's step: the outside's next act, which is the block's own step when the outside does
nothing. -/

namespace Sys2Proof.Machine

/-- One step (43_sequencer.md R207; assumption log 2). -/
def step (s : State) : Host.Outcome State Fault Refusal :=
  match s.env.acts with
  | [] => blockStep s
  | a :: _ => applyAct a s.dropAct

/-- `s` with the command word accepted, so that the next step is its first micro-operation. The block fetches nothing:
a program is the words its host presents, and this stands for the acceptance of one (assumption log 19). Acts of the
outside that stand first are held back by one `run`. -/
def State.withFetchWord (s : State) (nbits w : Nat) : State :=
  accept (tableWord nbits w)
    { s with env := { s.env with acts := match s.env.acts with
                                         | [] => []
                                         | a :: rest => .run :: a :: rest } }

end Sys2Proof.Machine
end

