-- ==== Sys2Proof/Machine/Asm.lean ====
section
/-! DEFINITION. The textual form of commands (30_encoding.md R83): lines as characters are read into `SourceLine`, and
a line is assembled into a command word or placed in the string memory. It is a notation, no part of the block; where
R83 leaves a detail of it open, assumption log 21 says what is read. -/

namespace Sys2Proof

open Machine (Cells Memory.write)

/-! ### Assembly -/

/-- The command a well-formed line stands for: operand order is the document's, byte order is the word's (R83). -/
def SourceLine.toInstr : SourceLine → Option Instr
  | .bin2bcd n => some (.bin2bcd (BitVec.ofNat 8 n))
  | .bcd2bin b => some (.bcd2bin (BitVec.ofNat 8 b))
  | .rtcInit => some .rtcInit
  | .rtcSetTime h m s f => some (.rtcSetTime (BitVec.ofNat 8 s) (BitVec.ofNat 8 m) (BitVec.ofNat 8 h) f.code)
  | .rtcGetTime => some .rtcGetTime
  | .rtcSetDate d m y w =>
    some (.rtcSetDate (BitVec.ofNat 8 d) (BitVec.ofNat 8 m) (BitVec.ofNat 8 y) (BitVec.ofNat 8 w))
  | .rtcGetDate => some .rtcGetDate
  | .lcdInit => some .lcdInit
  | .lcdCmd b => some (.lcdCmd (BitVec.ofNat 8 b))
  | .lcdChar b => some (.lcdChar (BitVec.ofNat 8 b))
  | .lcdStr a => some (.lcdStr (BitVec.ofNat 16 a))
  | .lcdHome => some .lcdHome
  | .lcdClear => some .lcdClear
  | .lcdCursor r c => some (.lcdCursor (BitVec.ofNat 8 r) (BitVec.ofNat 8 c))
  | .string _ _ => none

/-- The word a line assembles to; none for an ill-formed line and for a directive. -/
def SourceLine.assemble (l : SourceLine) : Option Word40 := if l.wellFormed then (l.toInstr).map encode else none

/-- The directive `.string addr, "text"`: the bytes of the text, then 0x00, from `addr` on (R83), addresses modulo
2^16 (20_memory.md R51). -/
def Machine.placeString (m : Cells) (a : StrAddr) : List Byte → Cells
  | [] => Memory.write m a 0x00#8
  | b :: rest => Machine.placeString (Memory.write m a b) (a + 1#16) rest

/-- The string memory after a line of a program: a well-formed directive places its text. -/
def SourceLine.place (l : SourceLine) (m : Cells) : Cells :=
  match l with
  | .string a t => if l.wellFormed then Machine.placeString m (BitVec.ofNat 16 a) (t.map (BitVec.ofNat 8)) else m
  | _ => m

namespace Machine

/-! ### Reading a line -/

/-- The characters before a comment. R83 makes `;` to end of line a comment and lets an operand be any character `'c'` or a
quoted text, and does not say which holds of a `;` inside the quotes: there it is kept and begins no comment, so
`LCD_CHAR ';'` and `.string 0, "a;b"` are read whole (DESIGN CHOICE, assumption log 21). -/
def stripComment (inText : Bool) : List Char → List Char
  | [] => []
  | '\'' :: c :: '\'' :: cs => '\'' :: c :: '\'' :: stripComment inText cs
  | '"' :: cs => '"' :: stripComment (!inText) cs
  | c :: cs => if c = ';' ∧ inText = false then [] else c :: stripComment inText cs

/-- White space, which R83 does not define: spaces and tabs (DESIGN CHOICE, assumption log 21). -/
def isBlank (c : Char) : Bool := c == ' ' || c == '\t'

/-- A line without the white space at its two ends. -/
def trim (cs : List Char) : List Char := ((cs.dropWhile isBlank).reverse.dropWhile isBlank).reverse

/-- The operands: the pieces between commas. R83 separates operands by commas and lets an operand be any character
`'c'`, and does not say which holds of `','`: every comma separates, inside the quotes too, so `LCD_CURSOR ',', 1` is no
line, and `LCD_CHAR ','`, whose one operand is not split, is read (DESIGN CHOICE, assumption log 21). -/
def splitCommas : List Char → List (List Char)
  | [] => [[]]
  | ',' :: cs => [] :: splitCommas cs
  | c :: cs =>
    match splitCommas cs with
    | p :: ps => (c :: p) :: ps
    | [] => [[c]]

/-- The value of a digit of a base up to 16, in either case (DESIGN CHOICE, assumption log 21: R83 names no case). -/
def digitVal (base : Nat) (c : Char) : Option Nat :=
  let v :=
    if '0'.toNat ≤ c.toNat ∧ c.toNat ≤ '9'.toNat then some (c.toNat - '0'.toNat)
    else if 'A'.toNat ≤ c.toNat ∧ c.toNat ≤ 'F'.toNat then some (c.toNat - 'A'.toNat + 10)
    else if 'a'.toNat ≤ c.toNat ∧ c.toNat ≤ 'f'.toNat then some (c.toNat - 'a'.toNat + 10)
    else none
  v.bind fun n => if n < base then some n else none

/-- A non-empty run of digits. -/
def readDigits (base : Nat) : List Char → Nat → Option Nat
  | [], n => some n
  | c :: cs, n => (digitVal base c).bind fun d => readDigits base cs (n * base + d)

/-- A number: decimal, `0x`, `0b`, without a sign, or a character `'c'` for its byte value; the quote itself may stand
between the quotes (DESIGN CHOICE, assumption log 21). -/
def readNumber (cs : List Char) : Option Nat :=
  match trim cs with
  | ['\'', c, '\''] => some c.toNat
  | '0' :: 'x' :: d :: ds => readDigits 16 (d :: ds) 0
  | '0' :: 'b' :: d :: ds => readDigits 2 (d :: ds) 0
  | d :: ds => readDigits 10 (d :: ds) 0
  | [] => none

/-- A format name. -/
def readFormat (cs : List Char) : Option TimeFormat :=
  match trim cs with
  | ['A', 'M'] => some .am
  | ['P', 'M'] => some .pm
  | ['H', '2', '4'] => some .hour24
  | _ => none

/-- A line without operands. -/
def noOperand (l : SourceLine) (args : List Char) : Option SourceLine := if trim args = [] then some l else none

/-- The text between the two quotes of a `.string` directive; R83 gives no escapes, and a text that holds a `"` is no line
(DESIGN CHOICE, assumption log 21). -/
def readText (cs : List Char) : Option (List Nat) :=
  match trim cs with
  | '"' :: rest =>
    match rest.reverse with
    | '"' :: body => if '"' ∈ body then none else some (body.reverse.map Char.toNat)
    | _ => none
  | _ => none

/-- The operands of `.string addr, "text"`: the address ends at the first comma, inside the quotes of a character too,
so `.string ',', "x"` is no line, and the text, which is not split, may hold commas (DESIGN CHOICE, assumption log 21). -/
def readString (cs : List Char) : Option SourceLine := do
  let a ← readNumber (cs.takeWhile (· ≠ ','))
  match cs.dropWhile (· ≠ ',') with
  | ',' :: rest => do
    let t ← readText rest
    some (.string a t)
  | _ => none

/-- The operands of a line, by its mnemonic (R79, R83). -/
def readOperands (mnemonic args : List Char) : Option SourceLine :=
  if mnemonic = "BIN2BCD".toList then (readNumber args).map .bin2bcd
  else if mnemonic = "BCD2BIN".toList then (readNumber args).map .bcd2bin
  else if mnemonic = "RTC_INIT".toList then noOperand .rtcInit args
  else if mnemonic = "RTC_SET_TIME".toList then
    match splitCommas args with
    | [h, m, s, f] => do
      some (.rtcSetTime (← readNumber h) (← readNumber m) (← readNumber s) (← readFormat f))
    | _ => none
  else if mnemonic = "RTC_GET_TIME".toList then noOperand .rtcGetTime args
  else if mnemonic = "RTC_SET_DATE".toList then
    match splitCommas args with
    | [d, m, y, w] => do
      some (.rtcSetDate (← readNumber d) (← readNumber m) (← readNumber y) (← readNumber w))
    | _ => none
  else if mnemonic = "RTC_GET_DATE".toList then noOperand .rtcGetDate args
  else if mnemonic = "LCD_INIT".toList then noOperand .lcdInit args
  else if mnemonic = "LCD_CMD".toList then (readNumber args).map .lcdCmd
  else if mnemonic = "LCD_CHAR".toList then (readNumber args).map .lcdChar
  else if mnemonic = "LCD_STR".toList then (readNumber args).map .lcdStr
  else if mnemonic = "LCD_HOME".toList then noOperand .lcdHome args
  else if mnemonic = "LCD_CLEAR".toList then noOperand .lcdClear args
  else if mnemonic = "LCD_CURSOR".toList then
    match splitCommas args with
    | [r, c] => do
      some (.lcdCursor (← readNumber r) (← readNumber c))
    | _ => none
  else if mnemonic = ".string".toList then readString args
  else none

/-- One line of a program (R83): the mnemonic in capitals, then its operands, comments dropped; a line that is empty or
holds only a comment is none (DESIGN CHOICE, assumption log 21). -/
def readLine (cs : List Char) : Option SourceLine :=
  readOperands ((trim (stripComment false cs)).takeWhile (fun c => !isBlank c))
    ((trim (stripComment false cs)).dropWhile (fun c => !isBlank c))

end Machine
end Sys2Proof
end

