-- ==== Sys2Proof/Machine/Recorder.lean ====
section
/-! DEFINITION. The fixture `LineRecorder` (20_memory.md R68): views derived from the trace. They are no part of the
block; claims about the LCD commands are stated with them. -/

namespace Sys2Proof.Machine

/-- The bit a driven line carries; none where its level is not known (10_state.md R28, 93 U6). -/
def LineLevel.bit : LineLevel → Option Bool
  | .low => some false
  | .high => some true
  | .unconfigured => none
  | .configured => none

/-- `{D7, D6, D5, D4}` as one nibble; none while a data line is not driven. -/
def Lines.nibble (ls : Lines) : Option (BitVec 4) :=
  match ls.d7.bit, ls.d6.bit, ls.d5.bit, ls.d4.bit with
  | some b3, some b2, some b1, some b0 => some (BitVec.ofBool b3 ++ BitVec.ofBool b2 ++ BitVec.ofBool b1 ++ BitVec.ofBool b0)
  | _, _, _, _ => none

/-- One entry of `nibbles(trace)`: the level of RS, the nibble, and the delays requested since the entry before (for the
first entry see `nibbles`). -/
structure NibbleRec where
  rs : LineLevel
  nibble : Option (BitVec 4)
  delayUs : Nat
deriving DecidableEq, Repr

/-- What an event does to the lines; reset leaves all unconfigured (10_state.md R44). -/
def Event.moveLines (e : Event) (ls : Lines) : Lines :=
  match e with
  | .lineCfg l => ls.set l .configured
  | .lineWrite l v => ls.set l (.ofBool v)
  | .reset => State.reset.lines
  | _ => ls

/-- The delay an event requests, in microseconds. -/
def Event.delayUsOf : Event → Nat
  | .delayUs n => n
  | .delayMs n => n * 1000
  | _ => 0

/-- The delays a trace requests, in microseconds (42_lcd.md R174). -/
def totalDelayUs (tr : List Event) : Nat := (tr.map Event.delayUsOf).sum

/-- `nibbles(trace)` from given lines, `acc` the delays since the last rising edge of EN, or since the start where there
has been none (DESIGN CHOICE, assumption log 20): an entry for each `LineWrite(EN, 1)` at which `line[EN]` was 0
before. -/
def nibblesFrom (ls : Lines) (acc : Nat) : List Event → List NibbleRec
  | [] => []
  | e :: rest =>
    if e = .lineWrite .en true ∧ ls.en = .low then
      { rs := ls.rs, nibble := ls.nibble, delayUs := acc } :: nibblesFrom (e.moveLines ls) 0 rest
    else nibblesFrom (e.moveLines ls) (acc + e.delayUsOf) rest

/-- `nibbles(trace)` (R68): a trace starts from reset. R68 counts the delays of an entry since the previous such event
and does not say from where to count for the first entry, which has none: it is counted from the start of the trace
(DESIGN CHOICE, assumption log 20), 40000 for the events of `LCD_INIT`. -/
def nibbles (tr : List Event) : List NibbleRec := nibblesFrom State.reset.lines 0 tr

/-- An entry of `bytes(trace)`: the level of RS and the byte. -/
structure ByteRec where
  rs : LineLevel
  byte : Byte
deriving DecidableEq, Repr

/-- Nibbles taken in pairs, high then low, each pair with the RS level of its nibbles (R68). -/
def pairNibbles : List NibbleRec → List ByteRec
  | { rs := rs, nibble := some hi, delayUs := _ } :: { rs := _, nibble := some lo, delayUs := _ } :: rest =>
    { rs := rs, byte := hi ++ lo } :: pairNibbles rest
  | _ => []

/-- A trace cut before every `LineCfg(RS)`, the first event of an `LCD_INIT` and of nothing else (42_lcd.md R166):
what precedes the first, and one part for each. -/
def splitInits : List Event → List Event × List (List Event)
  | [] => ([], [])
  | e :: rest =>
    if e = .lineCfg .rs then ([], (e :: (splitInits rest).1) :: (splitInits rest).2)
    else (e :: (splitInits rest).1, (splitInits rest).2)

/-- `bytes(trace)` (R68): after the first four nibbles of an `LCD_INIT`, the handshake, nibbles pair into bytes. Before
the first `LCD_INIT` there is none (assumption log 20). -/
def bytesOf (tr : List Event) : List ByteRec :=
  (splitInits tr).2.flatMap fun part => pairNibbles ((nibbles part).drop 4)

/-- The events after the last `Reset` of a trace: "the sequence of events since reset" (00_scope.md R19). -/
def sinceReset : List Event → List Event
  | [] => []
  | e :: rest => if rest.contains .reset then sinceReset rest else if e = .reset then rest else e :: rest

end Sys2Proof.Machine
end

