-- ==== Sys2Proof/Safety.lean ====
section
/-! DEFINITION. What claims are stated with: the invariants of the block, the premises on the outside, the groups of
commands, the statuses each may report, and the events of each command written out from the spec's tables. -/

namespace Sys2Proof

/-! ### Groups of commands -/

/-- The five RTC commands (41_rtc.md). -/
def Instr.isRtc : Instr → Bool
  | .bin2bcd _ => false
  | .bcd2bin _ => false
  | .rtcInit => true
  | .rtcSetTime _ _ _ _ => true
  | .rtcGetTime => true
  | .rtcSetDate _ _ _ _ => true
  | .rtcGetDate => true
  | .lcdInit => false
  | .lcdCmd _ => false
  | .lcdChar _ => false
  | .lcdStr _ => false
  | .lcdHome => false
  | .lcdClear => false
  | .lcdCursor _ _ => false

/-- The six LCD commands under the ready check (42_lcd.md R162). -/
def Instr.needsReady : Instr → Bool
  | .bin2bcd _ => false
  | .bcd2bin _ => false
  | .rtcInit => false
  | .rtcSetTime _ _ _ _ => false
  | .rtcGetTime => false
  | .rtcSetDate _ _ _ _ => false
  | .rtcGetDate => false
  | .lcdInit => false
  | .lcdCmd _ => true
  | .lcdChar _ => true
  | .lcdStr _ => true
  | .lcdHome => true
  | .lcdClear => true
  | .lcdCursor _ _ => true

/-- The seven LCD commands (42_lcd.md). -/
def Instr.isLcd (i : Instr) : Bool := i.needsReady || decide (i = .lcdInit)

/-- The two BCD commands (40_bcd.md). -/
def Instr.isBcd : Instr → Bool
  | .bin2bcd _ => true
  | .bcd2bin _ => true
  | .rtcInit => false
  | .rtcSetTime _ _ _ _ => false
  | .rtcGetTime => false
  | .rtcSetDate _ _ _ _ => false
  | .rtcGetDate => false
  | .lcdInit => false
  | .lcdCmd _ => false
  | .lcdChar _ => false
  | .lcdStr _ => false
  | .lcdHome => false
  | .lcdClear => false
  | .lcdCursor _ _ => false

/-- The three commands that check the range of a field (60_exceptions.md R222). -/
def Instr.checksFields : Instr → Bool
  | .bin2bcd _ => true
  | .bcd2bin _ => false
  | .rtcInit => false
  | .rtcSetTime _ _ _ _ => true
  | .rtcGetTime => false
  | .rtcSetDate _ _ _ _ => true
  | .rtcGetDate => false
  | .lcdInit => false
  | .lcdCmd _ => false
  | .lcdChar _ => false
  | .lcdStr _ => false
  | .lcdHome => false
  | .lcdClear => false
  | .lcdCursor _ _ => false

/-- The matrix of 60_exceptions.md R238, a column at a time: the statuses a command can complete with. -/
def Instr.mayReport (i : Instr) : Machine.Status → Bool
  | .ok => true
  | .busError => i.isRtc
  | .invalidField => i.checksFields
  | .unimplemented => false
  | .notReady => i.needsReady

/-- The operands an encode command is checked on are in range (60_exceptions.md R222): what keeps `INVALID_FIELD`
from being raised. Every other command has no such check. -/
def Instr.operandsLegal : Instr → Bool
  | .bin2bcd n => decide (n.toNat ≤ 99)
  | .rtcSetTime s m h f => Machine.validTime s m h f
  | .rtcSetDate d m y w => Machine.validDate d m y w
  | .bcd2bin _ => true
  | .rtcInit => true
  | .rtcGetTime => true
  | .rtcGetDate => true
  | .lcdInit => true
  | .lcdCmd _ => true
  | .lcdChar _ => true
  | .lcdStr _ => true
  | .lcdHome => true
  | .lcdClear => true
  | .lcdCursor _ _ => true

/-- The column of `LCD_CURSOR`. -/
def Instr.cursorColumn : Instr → Option Byte
  | .bin2bcd _ => none
  | .bcd2bin _ => none
  | .rtcInit => none
  | .rtcSetTime _ _ _ _ => none
  | .rtcGetTime => none
  | .rtcSetDate _ _ _ _ => none
  | .rtcGetDate => none
  | .lcdInit => none
  | .lcdCmd _ => none
  | .lcdChar _ => none
  | .lcdStr _ => none
  | .lcdHome => none
  | .lcdClear => none
  | .lcdCursor _ column => some column

/-- The host's duties on operands (70_reset_and_hazards.md R257): the ranges, and the column within 1 to 16. The block
runs every command whether or not the host keeps them. -/
def Instr.inContract (i : Instr) : Bool :=
  i.operandsLegal && decide (∀ column ∈ i.cursorColumn, 1 ≤ column.toNat ∧ column.toNat ≤ 16)

/-! ### Words, as the encoding rules read them -/

/-- What 30_encoding.md R85 reads from a word, its fields as numbers: the command of the opcode's row with the bytes its format uses,
or the reserved opcode. -/
def decodedByRule (w : Word40) : Decoded :=
  let op := w.toNat / 2 ^ 32
  let a3 := BitVec.ofNat 8 (w.toNat / 2 ^ 24 % 256)
  let a2 := BitVec.ofNat 8 (w.toNat / 2 ^ 16 % 256)
  let a1 := BitVec.ofNat 8 (w.toNat / 2 ^ 8 % 256)
  let a0 := BitVec.ofNat 8 (w.toNat % 256)
  if op = 0x00 then .instr (.bin2bcd a0)
  else if op = 0x01 then .instr (.bcd2bin a0)
  else if op = 0x10 then .instr .rtcInit
  else if op = 0x11 then .instr (.rtcSetTime a0 a1 a2 a3)
  else if op = 0x12 then .instr .rtcGetTime
  else if op = 0x13 then .instr (.rtcSetDate a0 a1 a2 a3)
  else if op = 0x14 then .instr .rtcGetDate
  else if op = 0x20 then .instr .lcdInit
  else if op = 0x21 then .instr (.lcdCmd a0)
  else if op = 0x22 then .instr (.lcdChar a0)
  else if op = 0x23 then .instr (.lcdStr (BitVec.ofNat 16 (a1.toNat * 256 + a0.toNat)))
  else if op = 0x24 then .instr .lcdHome
  else if op = 0x25 then .instr .lcdClear
  else if op = 0x26 then .instr (.lcdCursor a1 a0)
  else .reserved (BitVec.ofNat 8 op)

namespace Machine

/-! ### Premises on the outside -/

/-- The fairness premise at a state (70_reset_and_hazards.md R269): no collaborator is silent, and none of the acts
of the outside is still to come. -/
structure Quiet (s : State) : Prop where
  acts : s.env.acts = []
  bus : s.env.busHung = false
  delay : s.env.delayHung = false

/-- A command has just been accepted (43_sequencer.md R201): the sequencer is at its first micro-operation, and no
micro-operation is in progress. -/
structure AtStart (s : State) : Prop where
  busy : s.busy = true
  seq : s.seq = 0
  phase : s.phase = .fresh

/-- The delay parameters have the values of 00_scope.md R9. -/
structure DefaultDelays (p : Params) : Prop where
  powerOn : p.tPowerOnMs = 40
  init1 : p.tInit1Ms = 5
  init2 : p.tInit2Us = 150
  enHigh : p.tEnHighUs = 10
  enLow : p.tEnLowUs = 100
  settle : p.tSettleMs = 2

/-- `n` steps of the machine. -/
def steps (n : Nat) (s : State) : Host.Outcome State Fault Refusal := Sys2Proof.core.run n s

/-- The bytes `cs`, none of them zero, stand in the string memory from `a` on, and a zero byte after them: the string
of 20_memory.md R51, addresses modulo 2^16. -/
def StringAt (m : Cells) : StrAddr → List Byte → Prop
  | a, [] => Memory.read m a = 0x00#8
  | a, c :: cs => Memory.read m a = c ∧ c ≠ 0x00#8 ∧ StringAt m (a + 1#16) cs

/-! ### The events of each command, from the spec's own tables -/

/-- "D4..D7 = wxyz, pulse" (42_lcd.md R166): the eight events of a nibble, the four levels as the tables write them. -/
def nibbleEvents (p : Params) (w x y z : Bool) : List Event :=
  [.lineWrite .d4 w, .lineWrite .d5 x, .lineWrite .d6 y, .lineWrite .d7 z, .lineWrite .en true, .delayUs p.tEnHighUs,
   .lineWrite .en false, .delayUs p.tEnLowUs]

/-- The 18 events of a byte (42_lcd.md R164): RS, RW low, bits 4 to 7, then bits 0 to 3. -/
def byteEvents (p : Params) (rs : Bool) (b : Byte) : List Event :=
  [.lineWrite .rs rs, .lineWrite .rw false] ++
    nibbleEvents p (b.getLsbD 4) (b.getLsbD 5) (b.getLsbD 6) (b.getLsbD 7) ++
    nibbleEvents p (b.getLsbD 0) (b.getLsbD 1) (b.getLsbD 2) (b.getLsbD 3)

/-- Phases P0, configure, and P1, all low (42_lcd.md R166). -/
def lineSetupEvents : List Event :=
  [.lineCfg .rs, .lineCfg .rw, .lineCfg .en, .lineCfg .d4, .lineCfg .d5, .lineCfg .d6, .lineCfg .d7,
   .lineWrite .rs false, .lineWrite .rw false, .lineWrite .en false, .lineWrite .d4 false, .lineWrite .d5 false,
   .lineWrite .d6 false, .lineWrite .d7 false]

/-- Phases P2 to P8 (42_lcd.md R166): the waits and the four nibbles 0011, 0011, 0011, 0010. -/
def handshakeEvents (p : Params) : List Event :=
  .delayMs p.tPowerOnMs :: nibbleEvents p true true false false ++
    .delayMs p.tInit1Ms :: nibbleEvents p true true false false ++
    .delayUs p.tInit2Us :: nibbleEvents p true true false false ++ nibbleEvents p false true false false

/-- Phases P9 to P13 (42_lcd.md R166). -/
def setupEvents (p : Params) : List Event :=
  byteEvents p false p.cmdFunctionSet ++ byteEvents p false p.cmdDisplayOnCursorOn ++ byteEvents p false p.cmdClear ++
    .delayMs p.tSettleMs :: byteEvents p false p.cmdEntryModeInc

/-- The 122 events of `LCD_INIT`, phase by phase (42_lcd.md R166). -/
def lcdInitEvents (p : Params) : List Event := lineSetupEvents ++ handshakeEvents p ++ setupEvents p

/-- The two events of a register read (41_rtc.md R132). -/
def regReadEvents (p : Params) (reg : Byte) : List Event := [.busWrite p.devAddr [reg], .busRead p.devAddr 1]

/-- The packed BCD byte of a number up to 99 as the tables of 95_test_vectors.md B1 give it: 16 times the tens digit
plus the units digit. -/
def bcdByte (n : Byte) : Byte := BitVec.ofNat 8 (16 * (n.toNat / 10) + n.toNat % 10)

/-- The hours byte of 95_test_vectors.md B4: 0x40 more for AM, 0x60 more for PM. -/
def hoursByte (h fmt : Byte) : Byte :=
  bcdByte h + (if fmt = 0#8 then 0x40#8 else if fmt = 1#8 then 0x60#8 else 0#8)

/-- The events of a command between its acceptance and its response when nothing fails (41_rtc.md R133 to R139,
42_lcd.md R165 to R172); none for `LCD_STR`, whose events depend on the string memory. -/
def commandEvents (p : Params) : Instr → Option (List Event)
  | .bin2bcd _ => some []
  | .bcd2bin _ => some []
  | .rtcInit =>
    some ([.busInit, .busWrite p.devAddr [p.regSeconds, 0#8]] ++ regReadEvents p p.regSeconds)
  | .rtcSetTime s m h f =>
    some [.busWrite p.devAddr [p.regSeconds, bcdByte s], .busWrite p.devAddr [p.regMinutes, bcdByte m],
          .busWrite p.devAddr [p.regHours, hoursByte h f]]
  | .rtcGetTime =>
    some (regReadEvents p p.regSeconds ++ regReadEvents p p.regMinutes ++ regReadEvents p p.regHours)
  | .rtcSetDate d m y w =>
    some [.busWrite p.devAddr [p.regDate, bcdByte d], .busWrite p.devAddr [p.regMonth, bcdByte m],
          .busWrite p.devAddr [p.regYear, bcdByte y], .busWrite p.devAddr [p.regWeekday, bcdByte w]]
  | .rtcGetDate =>
    some (regReadEvents p p.regDate ++ regReadEvents p p.regMonth ++ regReadEvents p p.regYear ++
      regReadEvents p p.regWeekday)
  | .lcdInit => some (lcdInitEvents p)
  | .lcdCmd b => some (byteEvents p false b)
  | .lcdChar b => some (byteEvents p true b)
  | .lcdStr _ => none
  | .lcdHome => some (byteEvents p false p.cmdReturnHome ++ [.delayMs p.tSettleMs])
  | .lcdClear => some (byteEvents p false p.cmdClear ++ [.delayMs p.tSettleMs])
  | .lcdCursor row column =>
    if row = 1#8 then some (byteEvents p false ((column + 255#8) ||| 0x80#8))
    else if row = 2#8 then some (byteEvents p false ((column + 255#8) ||| 0xC0#8))
    else some []

/-- The events of `LCD_STR` on the characters `cs` from `a` on (42_lcd.md R169): a `MemRead` and a `SendByte` for each,
then the `MemRead` that finds the terminator. -/
def stringEvents (p : Params) : StrAddr → List Byte → List Event
  | a, [] => [.memRead a]
  | a, c :: cs => .memRead a :: (byteEvents p true c ++ stringEvents p (a + 1#16) cs)

/-- A transaction of the bus. -/
def Event.isBus : Event → Bool
  | .busWrite _ _ | .busRead _ _ => true
  | _ => false

/-- A delay request. -/
def Event.isDelay : Event → Bool
  | .delayUs _ | .delayMs _ => true
  | _ => false

/-- A response. -/
def Event.isResponse : Event → Bool
  | .response _ _ => true
  | _ => false

/-- What the seven lines hold after a list of events. -/
def linesAfter (evs : List Event) (ls : Lines) : Lines := evs.foldl (fun l e => e.moveLines l) ls

/-- The command `i`, run from `s` to its response, records `count` events and then a response with the status `st`;
with the default delay parameters the delays requested sum to `us` microseconds (42_lcd.md R174). -/
def RunRecords (i : Instr) (s : State) (st : Status) (count us : Nat) : Prop :=
  ∃ (n : Nat) (t : State) (evs : List Event) (res : Option Results),
    runCommand i n s = .next t ∧ t.busy = false ∧ t.trace = s.trace ++ evs ++ [.response st res] ∧
    (∀ e ∈ evs, e.isResponse = false) ∧ evs.length = count ∧ (DefaultDelays s.params → totalDelayUs evs = us)

/-! ### Invariants -/

/-- A line the block has driven: it holds a level (10_state.md R28). -/
def LineLevel.driven (v : LineLevel) : Prop := v = .low ∨ v = .high

/-- The port and response registers: `rsp.valid` is 0 while a command is in progress, the result bytes are absent
exactly when the status is not `OK` (10_state.md R22), only a busy block waits for an answer, and only an RTC command
whose operands are in range is left with a failed transaction (60_exceptions.md R226, R227). -/
structure PortInv (s : State) : Prop where
  validIdle : s.rsp.valid = true → s.busy = false
  resultsIffOk : s.rsp.results = none ↔ s.rsp.status ≠ .ok
  phaseBusy : s.phase ≠ .fresh → s.busy = true
  failedRtc : s.phase = .failed → ∃ i : Instr, decode s.cmd = .instr i ∧ i.isRtc = true ∧ i.operandsLegal = true

/-- `SimRTC`'s registers are in canonical form, where the bus is that fixture. -/
def Env.chipWf (e : Env) : Bool :=
  match e.bus with
  | .sim _ chip => chip.wf
  | _ => true

/-- The memories outside keep their canonical form, and the register image addresses are distinct (00_scope.md R7). -/
structure MemInv (s : State) : Prop where
  mem : Memory.wf s.env.mem = true
  chip : s.env.chipWf = true
  params : s.params.wf

/-- Before micro-operation `k` of a byte sent, EN is high: between the two edges of either pulse (42_lcd.md R164). -/
def enHighInByte (k : Nat) : Bool := k == 7 || k == 8 || k == 15 || k == 16

/-- Before micro-operation `k` of a nibble, EN is high (42_lcd.md R163). -/
def enHighInNibble (k : Nat) : Bool := k == 5 || k == 6

/-- Before micro-operation `k` of a command, EN is high: the positions strictly inside a pulse, by the `seq` columns of
42_lcd.md R166 and the shape of R164. -/
def enHighAt (i : Instr) (k : Nat) : Bool :=
  match i with
  | .lcdInit =>
    (decide (15 ≤ k) && enHighInNibble (k - 15)) || (decide (24 ≤ k) && enHighInNibble (k - 24)) ||
    (decide (33 ≤ k) && enHighInNibble (k - 33)) || (decide (41 ≤ k) && enHighInNibble (k - 41)) ||
    (decide (49 ≤ k) && enHighInByte (k - 49)) || (decide (67 ≤ k) && enHighInByte (k - 67)) ||
    (decide (85 ≤ k) && enHighInByte (k - 85)) || (decide (104 ≤ k) && enHighInByte (k - 104))
  | .lcdCmd _ => enHighInByte k
  | .lcdChar _ => enHighInByte k
  | .lcdHome => enHighInByte k
  | .lcdClear => enHighInByte k
  | .lcdCursor row _ => (decide (row = 1#8) || decide (row = 2#8)) && enHighInByte k
  | .lcdStr _ => decide (1 ≤ k % strPeriod) && enHighInByte (k % strPeriod - 1)
  | .bin2bcd _ => false
  | .bcd2bin _ => false
  | .rtcInit => false
  | .rtcSetTime _ _ _ _ => false
  | .rtcGetTime => false
  | .rtcSetDate _ _ _ _ => false
  | .rtcGetDate => false

/-- The LCD protocol state and its lines (42_lcd.md R160, R161, R163; 10_state.md R27, R28). -/
structure LcdInv (s : State) : Prop where
  /-- `Initializing` lasts exactly as long as `LCD_INIT` is in progress. -/
  initIff : s.lcdState = .initializing ↔ (s.busy = true ∧ decode s.cmd = .instr .lcdInit)
  /-- Before any `LCD_INIT` no line is configured. -/
  uninit : s.lcdState = .uninitialized → s.lines = State.reset.lines
  /-- In `Ready` every line is driven: no command but `LCD_INIT` sees a line `Configured`. -/
  ready : s.lcdState = .ready → ∀ l, (s.lines.get l).driven
  /-- In `LCD_INIT` line `j` is driven from position `8 + j` on (42_lcd.md R166, phase P1). -/
  progress : s.lcdState = .initializing → ∀ j, ∀ l, allLines[j]? = some l → 8 + j ≤ s.seq → (s.lines.get l).driven
  /-- `RW` is only ever driven to 0. -/
  rwNeverHigh : s.lines.rw ≠ .high
  /-- EN is high only inside a pulse of the command in progress. -/
  enPulse : s.lines.en = .high → s.busy = true ∧ ∃ i, decode s.cmd = .instr i ∧ enHighAt i s.seq = true
  /-- `LCD_STR` is past its test only with a byte that is no terminator. -/
  strHeld : s.busy = true → ∀ a, decode s.cmd = .instr (.lcdStr a) →
    (2 ≤ s.seq % strPeriod ∨ (s.seq % strPeriod = 0 ∧ 0 < s.seq)) → s.held ≠ 0x00#8

end Machine
end Sys2Proof
end

