-- ==== Sys2Proof/Certificates/Slice0/Obligations.lean ====
section
/-! DEFINITION. The statements for the provers. Each docstring names the rule it formalises. Result bytes are written
`⟨r3, r2, r1, r0⟩`. -/

open Sys2Proof Sys2Proof.Machine

/-! ### Words -/

/-- 30_encoding.md R85: every word decodes as the rule reads its fields; decoding an encoded command gives it back;
encoding a decoded word gives the word with its ignored bytes 0 and its opcode the word's; a word is reserved exactly
when no command has its opcode. -/
def Obligations.DecodeInvertsEncode : Prop :=
  (∀ w : Word40, decode w = decodedByRule w) ∧
  (∀ i : Instr, decode (encode i) = .instr i) ∧
  (∀ (w : Word40) (i : Instr), decode w = .instr i → i.opcode = opField w ∧ encode i = w &&& i.usedBits) ∧
  (∀ w : Word40, decode w = .reserved (opField w) ↔ ∀ i : Instr, i.opcode ≠ opField w)

/-- 30_encoding.md R79: a word spells the command of a row of the table exactly when `w & mask == match`. -/
def Obligations.DecodeFollowsOpcodeTable : Prop :=
  ∀ r ∈ opRows, ∀ w : Word40, r.spelledBy w = true ↔ ∃ i : Instr, decode w = .instr i ∧ i.mnemonic = r.mnemonic

/-- 30_encoding.md R81 (the spec's decision D7): the operand bytes a format does not use may hold any value and have no
effect; the opcode alone names the command, and no operand bits make a defined opcode illegal. -/
def Obligations.IgnoredBytesHaveNoEffect : Prop :=
  (∀ (w junk : Word40) (i : Instr), decode w = .instr i →
    decode ((w &&& i.usedBits) ||| (junk &&& ~~~i.usedBits)) = .instr i) ∧
  (∀ (w w' : Word40) (i : Instr), opField w = opField w' → decode w = .instr i →
    ∃ j : Instr, decode w' = .instr j ∧ j.mnemonic = i.mnemonic)

/-- The words of 95_test_vectors.md B10 decode to the commands it lists. -/
def Obligations.SampleWordsDecode : Prop :=
  decode 0x0000000000#40 = .instr (.bin2bcd 0#8) ∧
  decode 0x01FFFFFF59#40 = .instr (.bcd2bin 0x59#8) ∧
  decode 0x10ABCDEF01#40 = .instr .rtcInit ∧
  decode 0x11010B3B0F#40 = .instr (.rtcSetTime 15#8 59#8 11#8 1#8) ∧
  decode 0x1307630C1F#40 = .instr (.rtcSetDate 31#8 12#8 99#8 7#8) ∧
  decode 0x23FFFF1234#40 = .instr (.lcdStr 0x1234#16) ∧
  decode 0x2600000210#40 = .instr (.lcdCursor 2#8 16#8) ∧
  decode 0x1500000000#40 = .reserved 0x15#8

/-- 30_encoding.md R83: the word each line of the textual form assembles to, as a number. The last clause is the
model's choice, which R83 does not state: a line with a number that does not fit its field assembles to none (DESIGN
CHOICE, assumption log 21). -/
def Obligations.SourceLinesAssembleAsListed : Prop :=
  (∀ n < 256, (SourceLine.bin2bcd n).assemble = some (BitVec.ofNat 40 n)) ∧
  (∀ b < 256, (SourceLine.bcd2bin b).assemble = some (BitVec.ofNat 40 (0x01 * 2 ^ 32 + b))) ∧
  (SourceLine.rtcInit.assemble = some 0x1000000000#40) ∧
  (∀ h < 256, ∀ m < 256, ∀ s < 256, ∀ f : TimeFormat, (SourceLine.rtcSetTime h m s f).assemble =
    some (BitVec.ofNat 40 (0x11 * 2 ^ 32 + f.code.toNat * 2 ^ 24 + h * 2 ^ 16 + m * 2 ^ 8 + s))) ∧
  (SourceLine.rtcGetTime.assemble = some 0x1200000000#40) ∧
  (∀ d < 256, ∀ m < 256, ∀ y < 256, ∀ w < 256, (SourceLine.rtcSetDate d m y w).assemble =
    some (BitVec.ofNat 40 (0x13 * 2 ^ 32 + w * 2 ^ 24 + y * 2 ^ 16 + m * 2 ^ 8 + d))) ∧
  (SourceLine.rtcGetDate.assemble = some 0x1400000000#40) ∧
  (SourceLine.lcdInit.assemble = some 0x2000000000#40) ∧
  (∀ b < 256, (SourceLine.lcdCmd b).assemble = some (BitVec.ofNat 40 (0x21 * 2 ^ 32 + b))) ∧
  (∀ b < 256, (SourceLine.lcdChar b).assemble = some (BitVec.ofNat 40 (0x22 * 2 ^ 32 + b))) ∧
  (∀ a < 65536, (SourceLine.lcdStr a).assemble = some (BitVec.ofNat 40 (0x23 * 2 ^ 32 + a))) ∧
  (SourceLine.lcdHome.assemble = some 0x2400000000#40) ∧
  (SourceLine.lcdClear.assemble = some 0x2500000000#40) ∧
  (∀ r < 256, ∀ c < 256,
    (SourceLine.lcdCursor r c).assemble = some (BitVec.ofNat 40 (0x26 * 2 ^ 32 + r * 2 ^ 8 + c))) ∧
  (∀ l : SourceLine, l.wellFormed = false → l.assemble = none)

/-- 30_encoding.md R83: the directive `.string addr, "text"` as a line of a program. A line that is no directive leaves
the string memory as it is. A well-formed directive puts the bytes of the text, then 0x00, at `addr` and the addresses
after it modulo 2^16; every other byte is unchanged. What then stands at `addr` as a string (20_memory.md R51) is the
text up to its first zero byte, the whole text where it has none. Two points are the model's choice, which R83 does not
state (DESIGN CHOICE, assumption log 21): the second clause, that an ill-formed directive places nothing; and what a
text of 65536 bytes or more, which would come round to its own beginning, places: of that nothing is stated but the
canonical form and the frame. -/
def Obligations.StringDirectivePlacesText : Prop :=
  (∀ (m : Cells) (l : SourceLine), (∀ a t, l ≠ .string a t) → l.place m = m) ∧
  (∀ (m : Cells) (a : Nat) (t : List Nat), (SourceLine.string a t).wellFormed = false →
    (SourceLine.string a t).place m = m) ∧
  (∀ (m : Cells) (a : Nat) (t : List Nat), (SourceLine.string a t).wellFormed = true → Memory.wf m = true →
    Memory.wf ((SourceLine.string a t).place m) = true ∧
    (∀ x : StrAddr, (∀ k ≤ t.length, x ≠ BitVec.ofNat 16 (a + k)) →
      Memory.read ((SourceLine.string a t).place m) x = Memory.read m x) ∧
    (t.length < 65536 →
      (∀ (k n : Nat), t[k]? = some n →
        Memory.read ((SourceLine.string a t).place m) (BitVec.ofNat 16 (a + k)) = BitVec.ofNat 8 n) ∧
      Memory.read ((SourceLine.string a t).place m) (BitVec.ofNat 16 (a + t.length)) = 0x00#8 ∧
      StringAt ((SourceLine.string a t).place m) (BitVec.ofNat 16 a)
        ((t.takeWhile (fun n => decide (n ≠ 0))).map (BitVec.ofNat 8))))

/-! ### The step and the sequencer -/

/-- 43_sequencer.md R202, R207: in a command the step is the step of the command its word spells, less the act of the
outside it used up; and the word `withFetchWord` places is the command the next step runs, as if just accepted. (The
acts of the outside are the model's, DESIGN CHOICE, assumption log 2; that `withFetchWord` stands for the acceptance is
DEDUCED, assumption log 19.) -/
def Obligations.StepRunsCommandInProgress : Prop :=
  (∀ (s : State) (i : Instr), s.env.acts = [] → s.busy = true → decode s.cmd = .instr i → step s = exec i s) ∧
  (∀ (s : State) (i : Instr) (rest : List Act), s.env.acts = .run :: rest → s.busy = true →
    decode s.cmd = .instr i → step s = exec i s.dropAct) ∧
  (∀ (s : State) (w : Nat) (i : Instr), decode (BitVec.ofNat 40 w) = .instr i →
    step (s.withFetchWord 40 w) = exec i (accept (BitVec.ofNat 40 w) s))

/-- 43_sequencer.md R200, R201 and the row "`LCD_INIT` accepted" of 42_lcd.md R161 (DEDUCED to take place with the
acceptance, assumption log 9): what an idle block's step writes, and that it waits where no word is presented (DEDUCED,
assumption log 3). -/
def Obligations.IdleBlockAcceptsPresentedWord : Prop :=
  (∀ (s : State) (w : Word40) (rest : List Word40), s.env.acts = [] → s.busy = false → s.env.port = w :: rest →
    step s = .next
      { s with
        busy := true, cmd := w, seq := 0, phase := .fresh, rsp := { s.rsp with valid := false },
        lcdState := if decode w = .instr .lcdInit then .initializing else s.lcdState,
        trace := s.trace ++ [.accept w], env := { s.env with port := rest } }) ∧
  (∀ s : State, s.env.acts = [] → s.busy = false → s.env.port = [] → step s = .next s)

/-- 43_sequencer.md R200, first clause: while a command is in progress no presented command is accepted, whichever it is,
and none is lost. The second clause is the model's choice, not R200's, which leaves the order of words to the outside of
the block: a word presented while others wait stands behind them (DESIGN CHOICE, assumption log 25). -/
def Obligations.BusyBlockLeavesWordsAtPort : Prop :=
  (∀ s t : State, s.busy = true → s.env.acts = [] → step s = .next t →
    t.env.port = s.env.port ∧ t.cmd = s.cmd ∧ s.trace <+: t.trace ∧
    ∀ w : Word40, Event.accept w ∉ t.trace.drop s.trace.length) ∧
  (∀ (s : State) (w : Word40) (rest : List Act), s.env.acts = .present w :: rest →
    step s = .next { s with env := { s.env with acts := rest, port := s.env.port ++ [w] } })

/-- 30_encoding.md R80 (the spec's decision D8): the 242 reserved opcodes, by value; a word with one is accepted and
completes with `UNIMPLEMENTED`, making no event but its acceptance and response and changing nothing but `busy`, `cmd`,
`seq`, `rsp`. (The word leaves the port. Two points are the model's own: the field `phase`, assumption log 5, and that
`seq` is still 0 after the response, where 10_state.md R23 gives it no meaning, DESIGN CHOICE, assumption log 10.) -/
def Obligations.ReservedOpcodeCompletesUnimplemented : Prop :=
  (∀ w : Word40, decode w = .reserved (opField w) ↔
    (0x02 ≤ (opField w).toNat ∧ (opField w).toNat ≤ 0x0F) ∨ (0x15 ≤ (opField w).toNat ∧ (opField w).toNat ≤ 0x1F) ∨
      0x27 ≤ (opField w).toNat) ∧
  (∀ (s : State) (w : Word40) (rest : List Word40), s.env.acts = [] → s.busy = false → s.env.port = w :: rest →
    decode w = .reserved (opField w) →
    steps 2 s = .next
      { s with
        busy := false, cmd := w, seq := 0, phase := .fresh,
        rsp := { valid := true, status := .unimplemented, results := none },
        trace := s.trace ++ [.accept w, .response .unimplemented none], env := { s.env with port := rest } }) ∧
  Status.unimplemented.code = 3#8

/-- 60_exceptions.md R226: no command stops the machine; every step of every command answers a next state. -/
def Obligations.EveryCommandStepAnswersNext : Prop :=
  ∀ (i : Instr) (s : State), ∃ t : State, exec i s = .next t

/-- 43_sequencer.md R203 to R207, 60_exceptions.md R226: what one step of a command can do. It completes a
micro-operation; or a silent collaborator makes it wait; or, in an RTC command, its transaction fails, and the block is
still busy without a response; or it responds, which is a step of its own, with `BUS_ERROR` only after a transaction
that failed. That the event of a micro-operation is recorded once, when it is requested and not when it is answered, is
the model's choice (DESIGN CHOICE, assumption log 5), and so are the field `phase` that says so and `seq` left as it is
by a response (DESIGN CHOICE, assumption log 10). -/
def Obligations.CommandStepAdvancesWaitsOrResponds : Prop :=
  ∀ (i : Instr) (s t : State), s.busy = true → exec i s = .next t →
    (t.busy = true ∧ t.seq = s.seq + 1 ∧ t.phase = .fresh ∧ t.rsp = s.rsp ∧
      ((∃ e : Event, e.isResponse = false ∧ t.trace = s.trace ++ [e]) ∨ (s.phase = .issued ∧ t.trace = s.trace))) ∨
    (t.busy = true ∧ t.seq = s.seq ∧ t.phase = .issued ∧ t.rsp = s.rsp ∧
      (s.env.busHung = true ∨ s.env.delayHung = true) ∧
      ((s.phase ≠ .issued ∧ ∃ e : Event, e.isResponse = false ∧ t.trace = s.trace ++ [e]) ∨
        (s.phase = .issued ∧ t.trace = s.trace))) ∨
    (i.isRtc = true ∧ t.busy = true ∧ t.seq = s.seq + 1 ∧ t.phase = .failed ∧ t.rsp = s.rsp ∧
      ((∃ e : Event, e.isBus = true ∧ t.trace = s.trace ++ [e]) ∨ (s.phase = .issued ∧ t.trace = s.trace))) ∨
    (t.busy = false ∧ t.seq = s.seq ∧ t.phase = .fresh ∧ t.rsp.valid = true ∧
      t.trace = s.trace ++ [.response t.rsp.status t.rsp.results] ∧
      (t.rsp.status = .busError → i.isRtc = true ∧ s.phase = .failed))

/-- 43_sequencer.md R207: the command run as one big step is what the single steps of the machine do, while nothing
outside intervenes. -/
def Obligations.SingleStepsAgreeWithBigStep : Prop :=
  ∀ (n : Nat) (i : Instr) (s t : State), s.env.acts = [] → s.busy = true → decode s.cmd = .instr i →
    runCommand i n s = .next t → ∃ m ≤ n, steps m s = .next t ∧ (t.busy = true → m = n)

/-! ### Frames -/

/-- 10_state.md R21, R32, R42, 20_memory.md R51: no command writes its operand registers, a build-time constant, the
port, the string memory, or anything else outside but the bus collaborator. -/
def Obligations.NoCommandWritesOutsideOrOperands : Prop :=
  ∀ (i : Instr) (s t : State), exec i s = .next t →
    t.cmd = s.cmd ∧ t.params = s.params ∧ t.env.port = s.env.port ∧ t.env.acts = s.env.acts ∧
    t.env.busHung = s.env.busHung ∧ t.env.delayHung = s.env.delayHung ∧ t.env.taken = s.env.taken ∧
    t.env.mem = s.env.mem ∧ ∀ a : StrAddr, Memory.read t.env.mem a = Memory.read s.env.mem a

/-- 40_bcd.md R106: a BCD command makes no event but its response, and writes nothing but `rsp` and `busy`. -/
def Obligations.BcdCommandsFrame : Prop :=
  ∀ (i : Instr) (s t : State), i.isBcd = true → exec i s = .next t →
    t.cmd = s.cmd ∧ t.seq = s.seq ∧ t.lcdState = s.lcdState ∧ t.lines = s.lines ∧ t.scratch = s.scratch ∧
    t.strPtr = s.strPtr ∧ t.held = s.held ∧ t.readBack = s.readBack ∧ t.params = s.params ∧ t.env = s.env ∧
    t.trace = s.trace ++ [.response t.rsp.status t.rsp.results]

/-- 41_rtc.md R120 and the "state written" lists of R133 to R139: an RTC command touches no line, no `lcd_state` and no
string byte; only the get commands write `scratch` (and of it, as the model lays it out, only the bytes they read into:
`RTC_GET_TIME` leaves `scratch[3]`, DESIGN CHOICE, assumption log 26), and only `RTC_INIT` writes the model's
`readBack` (assumption log 13). Of the outside only the bus and the model's counter `draws` of free answers (assumption
log 4) move. -/
def Obligations.RtcCommandsFrame : Prop :=
  ∀ (i : Instr) (s t : State), i.isRtc = true → exec i s = .next t →
    t.cmd = s.cmd ∧ t.lcdState = s.lcdState ∧ t.lines = s.lines ∧ t.strPtr = s.strPtr ∧ t.held = s.held ∧
    t.params = s.params ∧
    (i ≠ .rtcGetTime → i ≠ .rtcGetDate → t.scratch = s.scratch) ∧
    (i = .rtcGetTime → t.scratch.b3 = s.scratch.b3) ∧
    (i ≠ .rtcInit → t.readBack = s.readBack) ∧
    (∀ a : StrAddr, Memory.read t.env.mem a = Memory.read s.env.mem a) ∧
    ∃ b n, t.env = { s.env with bus := b, draws := n }

/-- 42_lcd.md R160 and the "state written" lists of R165 to R172: an LCD command makes no bus transaction and changes
nothing outside; only `LCD_INIT` writes `lcd_state`, only `LCD_STR` writes `str_ptr` (and the model's `held`,
assumption log 13), and a command that is not ready changes no line. (That the ready check holds at every step of a
command, and not at its first alone, is DEDUCED, assumption log 11.) -/
def Obligations.LcdCommandsFrame : Prop :=
  ∀ (i : Instr) (s t : State), i.isLcd = true → exec i s = .next t →
    t.cmd = s.cmd ∧ t.scratch = s.scratch ∧ t.readBack = s.readBack ∧ t.params = s.params ∧ t.env = s.env ∧
    (i ≠ .lcdInit → t.lcdState = s.lcdState) ∧
    ((∀ a, i ≠ .lcdStr a) → t.strPtr = s.strPtr ∧ t.held = s.held) ∧
    (i.needsReady = true → s.lcdState ≠ .ready → t.lines = s.lines ∧ t.strPtr = s.strPtr ∧ t.held = s.held) ∧
    (∀ a : StrAddr, Memory.read t.env.mem a = Memory.read s.env.mem a) ∧
    ∀ e : Event, e.isBus = true → e ∉ t.trace.drop s.trace.length

/-! ### The BCD codec and its commands -/

/-- 40_bcd.md R100: `bin_to_bcd` on its domain, tens digit over units digit, and no value above 99. -/
def Obligations.BinToBcdOnItsDomain : Prop :=
  (∀ n : Nat, n ≤ 99 → ∃ b : Byte, binToBcd n = some b ∧ (hiNibble b).toNat = n / 10 ∧ (loNibble b).toNat = n % 10 ∧
    b.toNat = 16 * (n / 10) + n % 10 ∧ b.toNat ≤ 0x99) ∧
  (∀ n : Nat, 99 < n → binToBcd n = none)

/-- 40_bcd.md R102: the two round trips, and both functions injective where it says. -/
def Obligations.BcdRoundTrip : Prop :=
  (∀ n : Nat, n ≤ 99 → (binToBcd n).map bcdToBin = some (BitVec.ofNat 8 n)) ∧
  (∀ b : Byte, binToBcd (bcdToBin b).toNat = some b ↔ (hiNibble b).toNat ≤ 9 ∧ (loNibble b).toNat ≤ 9) ∧
  (∀ b : Byte, ¬ ((hiNibble b).toNat ≤ 9 ∧ (loNibble b).toNat ≤ 9) → 99 < (bcdToBin b).toNat ∨
    ∃ c : Byte, binToBcd (bcdToBin b).toNat = some c ∧ c ≠ b ∧ validBcd c = true) ∧
  (∀ m n : Nat, m ≤ 99 → n ≤ 99 → binToBcd m = binToBcd n → m = n) ∧
  (∀ b c : Byte, validBcd b = true → validBcd c = true → bcdToBin b = bcdToBin c → b = c)

/-- 40_bcd.md R101 (the spec's decision D12): `bcd_to_bin` is its formula on every byte, without loss. -/
def Obligations.BcdToBinOnEveryByte : Prop :=
  (∀ b : Byte, (bcdToBin b).toNat = (b.toNat / 16) * 10 + b.toNat % 16 ∧ (bcdToBin b).toNat ≤ 165) ∧
  (∀ b : Byte, validBcd b = true → (bcdToBin b).toNat ≤ 99) ∧
  (∀ b : Byte, validBcd b = false → 10 ≤ (bcdToBin b).toNat) ∧
  bcdToBin 0x0B#8 = 11#8 ∧ bcdToBin 0x11#8 = 11#8 ∧ bcdToBin 0x0A#8 = 10#8 ∧ bcdToBin 0x10#8 = 10#8

/-- 40_bcd.md R104 (the spec's decision D11): `BIN2BCD` in every state, its result for 0 to 99 and `INVALID_FIELD` for 100 to 255. -/
def Obligations.Bin2bcdResult : Prop :=
  (∀ (n : Byte) (s : State), n.toNat ≤ 99 →
    exec (.bin2bcd n) s = .next
      { s with
        busy := false, phase := .fresh,
        rsp := { valid := true, status := .ok,
                 results := some ⟨0#8, 0#8, 0#8, BitVec.ofNat 8 (16 * (n.toNat / 10) + n.toNat % 10)⟩ },
        trace := s.trace ++
          [.response .ok (some ⟨0#8, 0#8, 0#8, BitVec.ofNat 8 (16 * (n.toNat / 10) + n.toNat % 10)⟩)] }) ∧
  (∀ (n : Byte) (s : State), 99 < n.toNat →
    exec (.bin2bcd n) s = .next
      { s with
        busy := false, phase := .fresh, rsp := { valid := true, status := .invalidField, results := none },
        trace := s.trace ++ [.response .invalidField none] }) ∧
  encode (.bin2bcd 59#8) = 0x000000003B#40 ∧
  responseWord .ok (some ⟨0#8, 0#8, 0#8, BitVec.ofNat 8 (16 * (59 / 10) + 59 % 10)⟩) = some 0x0000000059#40

/-- 40_bcd.md R105: `BCD2BIN` in every state; it cannot fail. -/
def Obligations.Bcd2binResult : Prop :=
  (∀ (b : Byte) (s : State),
    exec (.bcd2bin b) s = .next
      { s with
        busy := false, phase := .fresh,
        rsp := { valid := true, status := .ok,
                 results := some ⟨0#8, 0#8, 0#8, BitVec.ofNat 8 ((b.toNat / 16) * 10 + b.toNat % 16)⟩ },
        trace := s.trace ++
          [.response .ok (some ⟨0#8, 0#8, 0#8, BitVec.ofNat 8 ((b.toNat / 16) * 10 + b.toNat % 16)⟩)] }) ∧
  encode (.bcd2bin 0x59#8) = 0x0100000059#40 ∧
  responseWord .ok (some ⟨0#8, 0#8, 0#8, BitVec.ofNat 8 ((0x59 / 16) * 10 + 0x59 % 16)⟩) = some 0x000000003B#40

/-! ### The RTC codec and checks -/

/-- 41_rtc.md R121 to R123: the seconds codec. CH is forced 0 on encoding, left out on decoding, and read by itself. -/
def Obligations.SecondsCodec : Prop :=
  (∀ s : Byte, s.toNat ≤ 59 → encSeconds s = some (bcdByte s) ∧ (bcdByte s).getLsbD 7 = false ∧
    bcdByte s &&& 0x7F#8 = bcdByte s) ∧
  (∀ b : Byte, decSeconds b = bcdToBin (b &&& 0x7F#8) ∧ (decSeconds b).toNat ≤ 85) ∧
  (∀ b : Byte, decCh b = b.getLsbD 7) ∧
  (∀ b : Byte, decSeconds (b ||| 0x80#8) = decSeconds b)

/-- 41_rtc.md R125 and R127: the hours codec on every legal pair and on every byte. -/
def Obligations.HoursCodec : Prop :=
  (∀ h : Byte, 1 ≤ h.toNat → h.toNat ≤ 12 → encHours h .am = some (bcdByte h ||| 0x40#8) ∧
    encHours h .pm = some (bcdByte h ||| 0x60#8)) ∧
  (∀ h : Byte, h.toNat ≤ 23 → encHours h .hour24 = some (bcdByte h)) ∧
  (∀ b : Byte, b.getLsbD 6 = true →
    decHours b = (bcdToBin (b &&& 0x9F#8), if b.getLsbD 5 = true then .pm else .am)) ∧
  (∀ b : Byte, b.getLsbD 6 = false → decHours b = (bcdToBin b, .hour24))

/-- 41_rtc.md R128: decoding inverts encoding on every legal pair and on every legal seconds value. -/
def Obligations.TimeCodecRoundTrip : Prop :=
  (∀ (h : Byte) (fmt : TimeFormat), hoursLegal h fmt = true → (encHours h fmt).map decHours = some (h, fmt)) ∧
  (∀ s : Byte, s.toNat ≤ 59 → (encSeconds s).map decSeconds = some s ∧ (encSeconds s).map decCh = some false)

/-- 41_rtc.md R135 and R138: when the operands of the two set commands are valid. -/
def Obligations.OperandRangeChecks : Prop :=
  (∀ s m h f : Byte, validTime s m h f = true ↔
    s.toNat ≤ 59 ∧ m.toNat ≤ 59 ∧
      ((f = 0#8 ∨ f = 1#8) ∧ 1 ≤ h.toNat ∧ h.toNat ≤ 12 ∨ f = 2#8 ∧ h.toNat ≤ 23)) ∧
  (∀ d mo y w : Byte, validDate d mo y w = true ↔
    1 ≤ d.toNat ∧ d.toNat ≤ 31 ∧ 1 ≤ mo.toNat ∧ mo.toNat ≤ 12 ∧ y.toNat ≤ 99 ∧ 1 ≤ w.toNat ∧ w.toNat ≤ 7)

/-- 41_rtc.md R134, R137, 60_exceptions.md R222, R227: a set command with a field out of range completes with
`INVALID_FIELD` before any other event, whatever the bus would answer. That the check is made at every step, so that
this holds in every state and not at the command's first step alone, is DEDUCED (assumption log 11). -/
def Obligations.InvalidFieldsWriteNothing : Prop :=
  ∀ (i : Instr) (s : State),
    ((∃ a b c d, i = .rtcSetTime a b c d ∧ validTime a b c d = false) ∨
      (∃ a b c d, i = .rtcSetDate a b c d ∧ validDate a b c d = false)) →
    exec i s = .next
      { s with
        busy := false, phase := .fresh, rsp := { valid := true, status := .invalidField, results := none },
        trace := s.trace ++ [.response .invalidField none] }

/-! ### The RTC commands -/

/-- 41_rtc.md R133: `RTC_INIT` when every transaction succeeds: the write of 0, then the read, and CH reported with
`OK`. (The byte read stands in the model's own `readBack`, assumption log 13. That `seq` keeps its last value after the
response is the model's, DESIGN CHOICE, assumption log 10.) -/
def Obligations.RtcInitRun : Prop :=
  ∀ (s : State) (x y b : Byte) (rest : List BusAnswer), AtStart s → s.env.busHung = false →
    s.env.bus = .script (.ok x :: .ok y :: .ok b :: rest) →
    runCommand .rtcInit 5 s = .next
      { s with
        busy := false, seq := 4, readBack := b,
        rsp := { valid := true, status := .ok,
                 results := some ⟨0#8, 0#8, 0#8, if b.getLsbD 7 = true then 1#8 else 0#8⟩ },
        trace := s.trace ++
          [.busInit, .busWrite s.params.devAddr [s.params.regSeconds, 0x00#8],
           .busWrite s.params.devAddr [s.params.regSeconds], .busRead s.params.devAddr 1,
           .response .ok (some ⟨0#8, 0#8, 0#8, if b.getLsbD 7 = true then 1#8 else 0#8⟩)],
        env := { s.env with bus := .script rest } }

/-- 41_rtc.md R134: `RTC_SET_TIME` on valid operands when every transaction succeeds. (That `seq` keeps its last value
after the response is the model's, DESIGN CHOICE, assumption log 10.) -/
def Obligations.RtcSetTimeRun : Prop :=
  ∀ (s : State) (sec min hr fmt x y z : Byte) (rest : List BusAnswer), AtStart s → s.env.busHung = false →
    validTime sec min hr fmt = true → s.env.bus = .script (.ok x :: .ok y :: .ok z :: rest) →
    runCommand (.rtcSetTime sec min hr fmt) 4 s = .next
      { s with
        busy := false, seq := 3,
        rsp := { valid := true, status := .ok, results := some ⟨0#8, 0#8, 0#8, 0#8⟩ },
        trace := s.trace ++
          [.busWrite s.params.devAddr [s.params.regSeconds, bcdByte sec],
           .busWrite s.params.devAddr [s.params.regMinutes, bcdByte min],
           .busWrite s.params.devAddr [s.params.regHours, hoursByte hr fmt],
           .response .ok (some ⟨0#8, 0#8, 0#8, 0#8⟩)],
        env := { s.env with bus := .script rest } }

/-- 41_rtc.md R136: `RTC_GET_TIME` when every transaction succeeds, whatever bytes are read. Two points are the model's
choice: the byte of the k-th register read stands in `scratch[k]`, k from 0, and stays there (DESIGN CHOICE, assumption
log 26), and `seq` keeps its last value after the response (DESIGN CHOICE, assumption log 10). -/
def Obligations.RtcGetTimeRun : Prop :=
  ∀ (s : State) (x bs y bm z bh : Byte) (rest : List BusAnswer), AtStart s → s.env.busHung = false →
    s.env.bus = .script (.ok x :: .ok bs :: .ok y :: .ok bm :: .ok z :: .ok bh :: rest) →
    let res : Results :=
      ⟨(decHours bh).2.code, (decHours bh).1, bcdToBin bm, bcdToBin (bs &&& 0x7F#8)⟩
    runCommand .rtcGetTime 7 s = .next
      { s with
        busy := false, seq := 6, scratch := { s.scratch with b0 := bs, b1 := bm, b2 := bh },
        rsp := { valid := true, status := .ok, results := some res },
        trace := s.trace ++
          [.busWrite s.params.devAddr [s.params.regSeconds], .busRead s.params.devAddr 1,
           .busWrite s.params.devAddr [s.params.regMinutes], .busRead s.params.devAddr 1,
           .busWrite s.params.devAddr [s.params.regHours], .busRead s.params.devAddr 1, .response .ok (some res)],
        env := { s.env with bus := .script rest } }

/-- 41_rtc.md R137: `RTC_SET_DATE` on valid operands when every transaction succeeds: date, month, year, weekday. (That
`seq` keeps its last value after the response is the model's, DESIGN CHOICE, assumption log 10.) -/
def Obligations.RtcSetDateRun : Prop :=
  ∀ (s : State) (d mo y w a b c e : Byte) (rest : List BusAnswer), AtStart s → s.env.busHung = false →
    validDate d mo y w = true → s.env.bus = .script (.ok a :: .ok b :: .ok c :: .ok e :: rest) →
    runCommand (.rtcSetDate d mo y w) 5 s = .next
      { s with
        busy := false, seq := 4,
        rsp := { valid := true, status := .ok, results := some ⟨0#8, 0#8, 0#8, 0#8⟩ },
        trace := s.trace ++
          [.busWrite s.params.devAddr [s.params.regDate, bcdByte d],
           .busWrite s.params.devAddr [s.params.regMonth, bcdByte mo],
           .busWrite s.params.devAddr [s.params.regYear, bcdByte y],
           .busWrite s.params.devAddr [s.params.regWeekday, bcdByte w],
           .response .ok (some ⟨0#8, 0#8, 0#8, 0#8⟩)],
        env := { s.env with bus := .script rest } }

/-- 41_rtc.md R139: `RTC_GET_DATE` when every transaction succeeds, each byte decoded whole, never `UNIMPLEMENTED`. Two
points are the model's choice: the byte of the k-th register read stands in `scratch[k]`, k from 0, and stays there
(DESIGN CHOICE, assumption log 26), and `seq` keeps its last value after the response (DESIGN CHOICE, assumption log
10). -/
def Obligations.RtcGetDateRun : Prop :=
  ∀ (s : State) (a bd b bo c bY e bw : Byte) (rest : List BusAnswer), AtStart s → s.env.busHung = false →
    s.env.bus = .script (.ok a :: .ok bd :: .ok b :: .ok bo :: .ok c :: .ok bY :: .ok e :: .ok bw :: rest) →
    let res : Results := ⟨bcdToBin bw, bcdToBin bY, bcdToBin bo, bcdToBin bd⟩
    runCommand .rtcGetDate 9 s = .next
      { s with
        busy := false, seq := 8, scratch := { b0 := bd, b1 := bo, b2 := bY, b3 := bw },
        rsp := { valid := true, status := .ok, results := some res },
        trace := s.trace ++
          [.busWrite s.params.devAddr [s.params.regDate], .busRead s.params.devAddr 1,
           .busWrite s.params.devAddr [s.params.regMonth], .busRead s.params.devAddr 1,
           .busWrite s.params.devAddr [s.params.regYear], .busRead s.params.devAddr 1,
           .busWrite s.params.devAddr [s.params.regWeekday], .busRead s.params.devAddr 1, .response .ok (some res)],
        env := { s.env with bus := .script rest } }

/-- 41_rtc.md R129, 43_sequencer.md R204 c, R207, 60_exceptions.md R221, R226: whichever transaction of an RTC command
is the first to fail, the command ends there. After the step of that transaction the block is still busy, its trace the
events up to that transaction and no response yet; the next step is the response with `BUS_ERROR` and no result, and
none of the events after the failure is made; lines and `lcd_state` are untouched. -/
def Obligations.FirstFailedTransactionEndsCommand : Prop :=
  ∀ (i : Instr) (s : State) (evs : List Event) (answers : List Byte) (rest : List BusAnswer),
    i.isRtc = true → i.operandsLegal = true → AtStart s → s.env.busHung = false →
    commandEvents s.params i = some evs → answers.length < evs.countP Event.isBus →
    s.env.bus = .script (answers.map BusAnswer.ok ++ .fail :: rest) →
    ∃ (u t : State) (before after : List Event) (e : Event),
      evs = before ++ e :: after ∧ e.isBus = true ∧ before.countP Event.isBus = answers.length ∧
      runCommand i (before.length + 1) s = .next u ∧ u.busy = true ∧ u.rsp = s.rsp ∧
      u.trace = s.trace ++ before ++ [e] ∧
      runCommand i (before.length + 2) s = .next t ∧ exec i u = .next t ∧
      t.trace = s.trace ++ before ++ [e, .response .busError none] ∧
      t.busy = false ∧ t.rsp = { valid := true, status := .busError, results := none } ∧
      t.env.bus = .script rest ∧ t.lines = s.lines ∧ t.lcdState = s.lcdState

/-- 41_rtc.md R141: against `NackBus` every RTC command whose operands are valid completes with `BUS_ERROR` after
exactly one transaction (with `BusInit` before it in `RTC_INIT`); a set command with invalid operands completes with
`INVALID_FIELD` and no transaction, whatever the bus is. (That the range check is made at every step, so that the last
clause holds in every state, is DEDUCED, assumption log 11.) -/
def Obligations.NeverAcknowledged : Prop :=
  (∀ (i : Instr) (s : State), i.isRtc = true → i.operandsLegal = true → AtStart s → s.env.busHung = false →
    s.env.bus = .nack → ∃ (t : State) (e : Event) (n : Nat), runCommand i n s = .next t ∧ e.isBus = true ∧
      t.trace = s.trace ++ (if i = .rtcInit then [.busInit] else []) ++ [e, .response .busError none] ∧
      t.busy = false ∧ t.rsp = { valid := true, status := .busError, results := none }) ∧
  (∀ (i : Instr) (s : State), i.isRtc = true → i.operandsLegal = false →
    ∃ t : State, exec i s = .next t ∧ t.trace = s.trace ++ [.response .invalidField none] ∧ t.busy = false ∧
      t.rsp = { valid := true, status := .invalidField, results := none } ∧ t.env = s.env)

/-- 41_rtc.md R140: set then get against `SimRTC`, from any idle state with the two commands at the port. Both
complete `OK` and the get reports the set command's operands; time and date alike. -/
def Obligations.SetThenGetReturnsOperands : Prop :=
  (∀ (s : State) (chip : SimRtc) (sec min hr fmt : Byte), Quiet s → s.busy = false → s.params.wf → chip.wf = true →
    s.env.bus = .sim [] chip → validTime sec min hr fmt = true →
    s.env.port = [encode (.rtcSetTime sec min hr fmt), encode .rtcGetTime] →
    ∃ u t : State, steps 5 s = .next u ∧ u.busy = false ∧ u.rsp.valid = true ∧ u.rsp.status = .ok ∧
      steps 13 s = .next t ∧ t.busy = false ∧
      t.rsp = { valid := true, status := .ok, results := some ⟨fmt, hr, min, sec⟩ }) ∧
  (∀ (s : State) (chip : SimRtc) (d mo y w : Byte), Quiet s → s.busy = false → s.params.wf → chip.wf = true →
    s.env.bus = .sim [] chip → validDate d mo y w = true →
    s.env.port = [encode (.rtcSetDate d mo y w), encode .rtcGetDate] →
    ∃ u t : State, steps 6 s = .next u ∧ u.busy = false ∧ u.rsp.valid = true ∧ u.rsp.status = .ok ∧
      steps 16 s = .next t ∧ t.busy = false ∧
      t.rsp = { valid := true, status := .ok, results := some ⟨w, y, mo, d⟩ })

/-- 41_rtc.md R133 corner case (b), 70_reset_and_hazards.md R258, R265: against a chip that holds what it is written,
`RTC_INIT` always reports "not halted" and leaves the seconds register 0, whatever it held. -/
def Obligations.RtcInitCannotSeeHaltedClock : Prop :=
  ∀ (s : State) (chip : SimRtc), AtStart s → s.env.busHung = false → chip.wf = true → s.env.bus = .sim [] chip →
    ∃ (t : State) (chip' : SimRtc), runCommand .rtcInit 5 s = .next t ∧ t.busy = false ∧
      t.rsp = { valid := true, status := .ok, results := some ⟨0#8, 0#8, 0#8, 0#8⟩ } ∧
      t.env.bus = .sim [] chip' ∧ chip'.regAt s.params.regSeconds = 0x00#8 ∧
      ∀ a : Byte, a ≠ s.params.regSeconds → chip'.regAt a = chip.regAt a

/-- 00_scope.md R11, 10_state.md R30, 42_lcd.md R160: the RTC part and the LCD part share no state, only the sequencer
(`seq`, `phase`, `busy`, `rsp`) and the constants. What an RTC command does depends on nothing of the LCD part, and
what an LCD command does on nothing of the bus or the RTC part's registers. The byte each part keeps for itself is a
field of the model's own, `readBack` for the one and `held` for the other (DESIGN CHOICE, assumption log 13). So are
`phase` (assumption log 5) and the counter `draws` of free answers (assumption log 4). -/
def Obligations.RtcAndLcdShareNoState : Prop :=
  (∀ (i : Instr) (s s' t t' : State), i.isRtc = true → s.seq = s'.seq → s.scratch = s'.scratch →
    s.readBack = s'.readBack → s.phase = s'.phase → s.params = s'.params → s.env.bus = s'.env.bus →
    s.env.draws = s'.env.draws → s.env.busHung = s'.env.busHung → s.busy = s'.busy → s.rsp = s'.rsp →
    exec i s = .next t → exec i s' = .next t' →
    t.busy = t'.busy ∧ t.seq = t'.seq ∧ t.phase = t'.phase ∧ t.rsp = t'.rsp ∧ t.scratch = t'.scratch ∧
    t.readBack = t'.readBack ∧ t.env.bus = t'.env.bus ∧ t.env.draws = t'.env.draws ∧
    ∃ evs, t.trace = s.trace ++ evs ∧ t'.trace = s'.trace ++ evs) ∧
  (∀ (i : Instr) (s s' t t' : State), i.isLcd = true → s.seq = s'.seq → s.lcdState = s'.lcdState →
    s.lines = s'.lines → s.strPtr = s'.strPtr → s.held = s'.held → s.phase = s'.phase → s.params = s'.params →
    s.env.mem = s'.env.mem → s.env.delayHung = s'.env.delayHung → s.busy = s'.busy → s.rsp = s'.rsp →
    exec i s = .next t → exec i s' = .next t' →
    t.busy = t'.busy ∧ t.seq = t'.seq ∧ t.phase = t'.phase ∧ t.rsp = t'.rsp ∧ t.lcdState = t'.lcdState ∧
    t.lines = t'.lines ∧ t.strPtr = t'.strPtr ∧ t.held = t'.held ∧
    ∃ evs, t.trace = s.trace ++ evs ∧ t'.trace = s'.trace ++ evs)

/-! ### The LCD commands -/

/-- 42_lcd.md R162, 60_exceptions.md R224: outside `Ready` the six commands complete with `NOT_READY`, with no event
but the response, no line changed and not even the first `MemRead`, whatever the operands. That the check is made at
every step, so that this holds in every state and not at the command's first step alone, is DEDUCED (assumption log
11). -/
def Obligations.NotReadyCommandsDoNothing : Prop :=
  ∀ (i : Instr) (s : State), i.needsReady = true → s.lcdState ≠ .ready →
    exec i s = .next
      { s with
        busy := false, phase := .fresh, rsp := { valid := true, status := .notReady, results := none },
        trace := s.trace ++ [.response .notReady none] }

/-- 42_lcd.md R161, R165, R166: `LCD_INIT` from any `lcd_state`, delays returning: the 122 events in order, then `OK`
and `Ready`, the lines as the last nibble left them; and at every position before, `Initializing`, busy, exactly the
events so far. Three points are the model's: `Ready` is written in the step of the response (DEDUCED, assumption log
1), the micro-operations write `Initializing` again (DEDUCED, assumption log 9), and `seq` keeps its last value after
the response (DESIGN CHOICE, assumption log 10). -/
def Obligations.LcdInitRun : Prop :=
  ∀ s : State, AtStart s → s.env.delayHung = false →
    runCommand .lcdInit 123 s = .next
      { s with
        busy := false, seq := 122, lcdState := .ready,
        lines := { rs := .low, rw := .low, en := .low,
                   d4 := .ofBool (s.params.cmdEntryModeInc.getLsbD 0),
                   d5 := .ofBool (s.params.cmdEntryModeInc.getLsbD 1),
                   d6 := .ofBool (s.params.cmdEntryModeInc.getLsbD 2),
                   d7 := .ofBool (s.params.cmdEntryModeInc.getLsbD 3) },
        rsp := { valid := true, status := .ok, results := some ⟨0#8, 0#8, 0#8, 0#8⟩ },
        trace := s.trace ++ lcdInitEvents s.params ++ [.response .ok (some ⟨0#8, 0#8, 0#8, 0#8⟩)] } ∧
    ∀ k : Nat, 0 < k → k ≤ 122 → ∃ t : State, runCommand .lcdInit k s = .next t ∧ t.busy = true ∧
      t.lcdState = .initializing ∧ t.seq = k ∧ t.trace = s.trace ++ (lcdInitEvents s.params).take k

/-- 42_lcd.md R174: the events a nibble, a byte and each LCD command record when run to the response, and the sums of the
delays they request with the delay parameters of 00_scope.md R9. -/
def Obligations.EventCountsAndDelaySums : Prop :=
  (∀ (p : Params) (v : Byte), (nibbleOps p v).length = 8 ∧
    (DefaultDelays p → totalDelayUs ((nibbleOps p v).map (MicroOp.event p.devAddr)) = 110)) ∧
  (∀ (p : Params) (rs : Bool) (b : Byte), (sendByteOps p rs b).length = 18 ∧
    (DefaultDelays p → totalDelayUs ((sendByteOps p rs b).map (MicroOp.event p.devAddr)) = 220)) ∧
  (∀ s : State, AtStart s → s.env.delayHung = false →
    RunRecords .lcdInit s .ok 122 48470 ∧
    (s.lcdState = .ready →
      (∀ b : Byte, RunRecords (.lcdCmd b) s .ok 18 220 ∧ RunRecords (.lcdChar b) s .ok 18 220) ∧
      RunRecords .lcdHome s .ok 19 2220 ∧ RunRecords .lcdClear s .ok 19 2220 ∧
      (∀ row column : Byte, if row = 1#8 ∨ row = 2#8 then RunRecords (.lcdCursor row column) s .ok 18 220
        else RunRecords (.lcdCursor row column) s .ok 0 0) ∧
      (∀ (a : StrAddr) (cs : List Byte), StringAt s.env.mem a cs →
        RunRecords (.lcdStr a) s .ok (19 * cs.length + 1) (220 * cs.length))) ∧
    (s.lcdState ≠ .ready → ∀ i : Instr, i.needsReady = true → RunRecords i s .notReady 0 0))

/-- 42_lcd.md R165 worked example and R166, with the default parameters (a premise on the `CMD_*` values, 91 N4): the
nibbles the `LineRecorder` of 20_memory.md R68 sees of `LCD_INIT`, and the four command bytes. The delay total of the
first nibble is counted from the start of the trace, which R68 leaves open (DESIGN CHOICE, assumption log 20); how
`bytes` pairs the nibbles is DEDUCED (the same log). -/
def Obligations.PowerOnNibbles : Prop :=
  ((nibbles (lcdInitEvents {})).map NibbleRec.nibble =
    [0x3#4, 0x3#4, 0x3#4, 0x2#4, 0x2#4, 0x8#4, 0x0#4, 0xE#4, 0x0#4, 0x1#4, 0x0#4, 0x6#4].map some) ∧
  (∀ n ∈ nibbles (lcdInitEvents {}), n.rs = .low) ∧
  ((nibbles (lcdInitEvents {})).map NibbleRec.delayUs =
    [40000, 5110, 260, 110, 110, 110, 110, 110, 110, 110, 2110, 110]) ∧
  (bytesOf (lcdInitEvents {})).map ByteRec.byte = [0x28#8, 0x0E#8, 0x01#8, 0x06#8]

/-- 42_lcd.md R167, R168, R170, R171, R172: the commands of one byte or none, in `Ready`, delays returning: their
events and then `OK`; after a byte EN and RW are low. (That `seq` keeps its last value after the response is the
model's, DESIGN CHOICE, assumption log 10.) -/
def Obligations.LcdSendRun : Prop :=
  ∀ (i : Instr) (s : State) (evs : List Event), i.needsReady = true → commandEvents s.params i = some evs →
    s.lcdState = .ready → AtStart s → s.env.delayHung = false →
    runCommand i (evs.length + 1) s = .next
      { s with
        busy := false, seq := evs.length, lines := linesAfter evs s.lines,
        rsp := { valid := true, status := .ok, results := some ⟨0#8, 0#8, 0#8, 0#8⟩ },
        trace := s.trace ++ evs ++ [.response .ok (some ⟨0#8, 0#8, 0#8, 0#8⟩)] } ∧
    (evs ≠ [] → (linesAfter evs s.lines).en = .low ∧ (linesAfter evs s.lines).rw = .low)

/-- 43_sequencer.md R203 with the event lists of 41_rtc.md and 42_lcd.md: every command but `LCD_STR`, at every
position of its list, makes exactly the event listed there and goes on by one, where the collaborators answer and no
check fails; and past its list it completes with `OK`. (Two points are DEDUCED: `LCD_INIT` writes `Initializing` again
at each of its micro-operations, assumption log 9, and `Ready` in the step of its response, assumption log 1.) -/
def Obligations.EveryPositionMakesItsEvent : Prop :=
  ∀ (i : Instr) (s : State) (evs : List Event) (b : Byte) (rest : List BusAnswer),
    commandEvents s.params i = some evs → i.operandsLegal = true → (i.needsReady = true → s.lcdState = .ready) →
    s.phase = .fresh → s.env.busHung = false → s.env.delayHung = false → s.env.bus = .script (.ok b :: rest) →
    (∀ e : Event, evs[s.seq]? = some e → ∃ t : State, exec i s = .next t ∧ t.trace = s.trace ++ [e] ∧
      t.seq = s.seq + 1 ∧ t.busy = s.busy ∧ t.phase = .fresh ∧ t.rsp = s.rsp ∧ t.lines = e.moveLines s.lines ∧
      t.lcdState = (if i = .lcdInit then .initializing else s.lcdState) ∧
      t.env = (if e.isBus = true then { s.env with bus := .script rest } else s.env)) ∧
    (evs.length ≤ s.seq → ∃ (t : State) (res : Results), exec i s = .next t ∧ t.busy = false ∧
      t.rsp = { valid := true, status := .ok, results := some res } ∧ t.trace = s.trace ++ [.response .ok (some res)] ∧
      t.lines = s.lines ∧ t.lcdState = (if i = .lcdInit then .ready else s.lcdState) ∧ t.env = s.env)

/-- 42_lcd.md R169, 20_memory.md R62, R64: the three things a step of `LCD_STR` does in `Ready`: the `MemRead` of the
operand's address, and later of the next address modulo 2^16, of the byte the memory holds at that moment; the response
when the byte read is zero; and the events of `SendByte` of any other byte. Three points are the model's: that
`str_ptr` moves on in the step of the next `MemRead` and not after the last event of `SendByte` (DEDUCED, assumption
log 12), that a `MemRead` completes in its step (DEDUCED, assumption log 24), and that the byte read is kept in a field
`held` of the model's own (DESIGN CHOICE, assumption log 13). -/
def Obligations.LcdStrStepInItsLoop : Prop :=
  ∀ (addr : StrAddr) (s : State), s.lcdState = .ready →
    (s.seq % 19 = 0 → ∀ a : StrAddr, a = (if s.seq = 0 then addr else s.strPtr + 1#16) →
      exec (.lcdStr addr) s = .next
        { s with seq := s.seq + 1, phase := .fresh, strPtr := a, held := Memory.read s.env.mem a,
                 trace := s.trace ++ [.memRead a] }) ∧
    (s.seq % 19 ≠ 0 → s.held = 0x00#8 →
      exec (.lcdStr addr) s = .next
        { s with busy := false, phase := .fresh,
                 rsp := { valid := true, status := .ok, results := some ⟨0#8, 0#8, 0#8, 0#8⟩ },
                 trace := s.trace ++ [.response .ok (some ⟨0#8, 0#8, 0#8, 0#8⟩)] }) ∧
    (s.held ≠ 0x00#8 → s.phase = .fresh → s.env.delayHung = false → ∀ (k : Nat) (e : Event), s.seq % 19 = k + 1 →
      (byteEvents s.params true s.held)[k]? = some e →
      exec (.lcdStr addr) s = .next
        { s with seq := s.seq + 1, lines := e.moveLines s.lines, trace := s.trace ++ [e] })

/-- 42_lcd.md R169: `LCD_STR` on a string of any length, delays returning: its 19 k + 1 events and then `OK`. That
`str_ptr` then stands at the zero byte (DEDUCED, assumption log 12) and that the zero byte stands in `held` (DESIGN
CHOICE, assumption log 13) are the model's. (That `seq` keeps its last value after the response is the model's, DESIGN
CHOICE, assumption log 10.) -/
def Obligations.LcdStrRun : Prop :=
  ∀ (cs : List Byte) (addr : StrAddr) (s : State), AtStart s → s.lcdState = .ready → s.env.delayHung = false →
    StringAt s.env.mem addr cs →
    runCommand (.lcdStr addr) (19 * cs.length + 2) s = .next
      { s with
        busy := false, seq := 19 * cs.length + 1, strPtr := addr + BitVec.ofNat 16 cs.length, held := 0x00#8,
        lines := linesAfter (stringEvents s.params addr cs) s.lines,
        rsp := { valid := true, status := .ok, results := some ⟨0#8, 0#8, 0#8, 0#8⟩ },
        trace := s.trace ++ stringEvents s.params addr cs ++ [.response .ok (some ⟨0#8, 0#8, 0#8, 0#8⟩)] }

/-- 42_lcd.md R169, 70_reset_and_hazards.md R263: on a string memory with no zero byte `LCD_STR` never responds: after
any number of steps it is still busy, one event further with each. -/
def Obligations.LcdStrWithoutTerminatorNeverResponds : Prop :=
  ∀ (addr : StrAddr) (s : State), AtStart s → s.lcdState = .ready → s.env.delayHung = false →
    (∀ a : StrAddr, Memory.read s.env.mem a ≠ 0x00#8) →
    ∀ n : Nat, ∃ (t : State) (evs : List Event), runCommand (.lcdStr addr) n s = .next t ∧ t.busy = true ∧
      t.rsp = s.rsp ∧ t.trace = s.trace ++ evs ∧ evs.length = n ∧ ∀ e ∈ evs, e.isResponse = false

/-- 42_lcd.md R172, R173: `cursor_cmd` on every operand: 8-bit wrap, bitwise OR, the ranges for columns 1 to 16, and
no byte for other rows. -/
def Obligations.CursorCommandByte : Prop :=
  (∀ c : Byte, cursorCmd 1#8 c = some (BitVec.ofNat 8 ((c.toNat + 255) % 256) ||| 0x80#8)) ∧
  (∀ c : Byte, cursorCmd 2#8 c = some (BitVec.ofNat 8 ((c.toNat + 255) % 256) ||| 0xC0#8)) ∧
  (∀ r c : Byte, r ≠ 1#8 → r ≠ 2#8 → cursorCmd r c = none) ∧
  (∀ c : Byte, 1 ≤ c.toNat → c.toNat ≤ 16 → cursorCmd 1#8 c = some (BitVec.ofNat 8 (0x80 + (c.toNat - 1))) ∧
    cursorCmd 2#8 c = some (BitVec.ofNat 8 (0xC0 + (c.toNat - 1)))) ∧
  cursorCmd 1#8 0#8 = some 0xFF#8 ∧ cursorCmd 2#8 16#8 = some 0xCF#8 ∧ cursorCmd 1#8 65#8 = cursorCmd 2#8 1#8

/-! ### Statuses, reset, the host -/

/-- 60_exceptions.md R238: a command completes with no status outside its row of the matrix; every cell marked can
happen; and a reserved opcode completes with `UNIMPLEMENTED` alone. -/
def Obligations.StatusMatrix : Prop :=
  (∀ (i : Instr) (s t : State), s.busy = true → exec i s = .next t → t.busy = false →
    i.mayReport t.rsp.status = true) ∧
  (∀ (i : Instr) (st : Status), i.mayReport st = true → ∃ (j : Instr) (s t : State), j.mnemonic = i.mnemonic ∧
    s.busy = true ∧ exec j s = .next t ∧ t.busy = false ∧ t.rsp.valid = true ∧ t.rsp.status = st) ∧
  (∀ (s : State) (op : Byte), decode s.cmd = .reserved op → ∃ t : State, commandStep s = .next t ∧ t.busy = false ∧
    t.rsp = { valid := true, status := .unimplemented, results := none })

/-- 30_encoding.md R71, 60_exceptions.md R220: the response word's fields and the five codes; no word where the result
bytes hold no value. (R71 gives those bytes no value; that there is then no word at all is the model's, DESIGN CHOICE,
assumption log 18.) -/
def Obligations.ResponseWordLayout : Prop :=
  (∀ (st : Status) (r : Results), ∃ w : Word40, responseWord st (some r) = some w ∧
    w.toNat = st.code.toNat * 2 ^ 32 + r.r3.toNat * 2 ^ 24 + r.r2.toNat * 2 ^ 16 + r.r1.toNat * 2 ^ 8 + r.r0.toNat) ∧
  (∀ st : Status, responseWord st none = none) ∧
  Status.ok.code = 0#8 ∧ Status.busError.code = 1#8 ∧ Status.invalidField.code = 2#8 ∧
  Status.unimplemented.code = 3#8 ∧ Status.notReady.code = 4#8

/-- 10_state.md R44: what reset leaves, the values the spec gives; and nothing is readable of the response. -/
def Obligations.ResetLeavesBlockIdle : Prop :=
  State.reset.lcdState = .uninitialized ∧ State.reset.busy = false ∧ State.reset.rsp.valid = false ∧
  (∀ l : Line, State.reset.lines.get l = .unconfigured) ∧ State.reset.hostReads = none ∧
  State.reset.lcdState.code = 0#2 ∧ State.reset.ready = true

/-- 70_reset_and_hazards.md R250, R252: reset in any state, a command in progress or not: the block's state as R44
says, the event `Reset` and no response, nothing outside touched. For a state in which a transaction or delay is cut
short, the clause that all outside is as it was is the model's reading and not the spec's: R252 and 93 U17 leave open
what the collaborator does with a cut transaction (DEDUCED, assumption log 23). That the event is appended to what was
recorded before is the model's too (DESIGN CHOICE, assumption log 8). -/
def Obligations.ResetAtAnyTime : Prop :=
  ∀ (s : State) (rest : List Act), s.env.acts = .reset :: rest →
    ∃ t : State, step s = .next t ∧ t.lcdState = .uninitialized ∧ t.busy = false ∧ t.rsp.valid = false ∧
      (∀ l : Line, t.lines.get l = .unconfigured) ∧ t.trace = s.trace ++ [.reset] ∧
      t.env = { s.env with acts := rest } ∧ t.params = s.params

/-- 10_state.md R27, 42_lcd.md R161: only `LCD_INIT` and reset move `lcd_state`; and in the states of the LCD invariant
only along the edges of the table of R161: to `Initializing` from one of the two other states, at the acceptance of
`LCD_INIT` (the step of the acceptance is DEDUCED, assumption log 9); to `Ready` from `Initializing`, with the response
of `LCD_INIT` after its 122 micro-operations (the step of the response is DEDUCED, assumption log 1); to
`Uninitialized` by reset. -/
def Obligations.OnlyInitAndResetMoveLcdState : Prop :=
  (∀ s t : State, step s = .next t → t.lcdState ≠ s.lcdState →
    (s.env.acts.head? = some .reset ∧ t.lcdState = .uninitialized) ∨
    (decode t.cmd = .instr .lcdInit ∧ t.busy = true ∧ t.lcdState = .initializing) ∨
    (decode t.cmd = .instr .lcdInit ∧ t.busy = false ∧ t.lcdState = .ready)) ∧
  (∀ s t : State, LcdInv s → step s = .next t → t.lcdState ≠ s.lcdState →
    (s.env.acts.head? = some .reset ∧ t.lcdState = .uninitialized) ∨
    ((s.lcdState = .uninitialized ∨ s.lcdState = .ready) ∧ s.busy = false ∧
      (∃ (w : Word40) (rest : List Word40), s.env.port = w :: rest ∧ t.cmd = w ∧ decode w = .instr .lcdInit) ∧
      t.busy = true ∧ t.lcdState = .initializing) ∨
    (s.lcdState = .initializing ∧ s.busy = true ∧ decode s.cmd = .instr .lcdInit ∧ 122 ≤ s.seq ∧
      t.busy = false ∧ t.rsp.status = .ok ∧ t.lcdState = .ready))

/-- 43_sequencer.md R208, 70_reset_and_hazards.md R263: a command whose transaction or delay is not answered stays
where it is for ever, busy and without a response, and reset frees the block; the delays of a character that `LCD_STR`
is sending among them. How a silent collaborator is written, by a flag outside and the field `phase` once the event is
recorded at the request, is the model's choice (DESIGN CHOICE, assumption log 5). -/
def Obligations.SilentCollaboratorFreezesBlock : Prop :=
  ∀ (i : Instr) (s : State) (e : Event), s.busy = true → s.phase = .issued → s.env.acts = [] →
    decode s.cmd = .instr i → i.operandsLegal = true → (i.needsReady = true → s.lcdState = .ready) →
    (i = .lcdInit → s.lcdState = .initializing) →
    ((∃ evs : List Event, commandEvents s.params i = some evs ∧ evs[s.seq]? = some e) ∨
      (∃ (a : StrAddr) (k : Nat), i = .lcdStr a ∧ s.seq % 19 = k + 1 ∧ s.held ≠ 0x00#8 ∧
        (byteEvents s.params true s.held)[k]? = some e)) →
    (e.isBus = true ∧ s.env.busHung = true ∨ e.isDelay = true ∧ s.env.delayHung = true) →
    (∀ n : Nat, steps n s = .next s) ∧
    ∃ t : State, step { s with env := { s.env with acts := [.reset] } } = .next t ∧ t.busy = false ∧
      t.rsp.valid = false ∧ t.trace = s.trace ++ [.reset]

/-- 10_state.md R45, R22, 70_reset_and_hazards.md R256: a host that takes a response that is not there, or the result
bytes of a command that failed, is at fault; otherwise it gets what the register holds, and nothing of the block
changes. In the states of the port invariant the result bytes are there exactly when the status is `OK`. (That these
reads stop the run is the model's choice, assumption log 18.) -/
def Obligations.HostReadsOfResponse : Prop :=
  (∀ (s : State) (rest : List Act), s.env.acts = .takeResponse :: rest →
    step s = if s.rsp.valid = true then
      .next { s with env := { s.env with acts := rest, taken := s.env.taken ++ [⟨s.rsp.status, s.rsp.results⟩] } }
    else .fault .hostReadsNoResponse) ∧
  (∀ (s : State) (rest : List Act), s.env.acts = .takeResults :: rest → s.rsp.valid = false →
    step s = .fault .hostReadsNoResponse) ∧
  (∀ (s : State) (rest : List Act), s.env.acts = .takeResults :: rest → s.rsp.valid = true → s.rsp.results = none →
    step s = .fault .hostReadsAbsentResults) ∧
  (∀ (s : State) (rest : List Act) (r : Results), s.env.acts = .takeResults :: rest → s.rsp.valid = true →
    s.rsp.results = some r →
    step s = .next { s with env := { s.env with acts := rest, taken := s.env.taken ++ [⟨s.rsp.status, some r⟩] } }) ∧
  (∀ (s : State) (rest : List Act), PortInv s → s.env.acts = .takeResults :: rest → s.rsp.valid = true →
    (s.rsp.status ≠ .ok → step s = .fault .hostReadsAbsentResults) ∧
    (s.rsp.status = .ok → ∃ r : Results, s.rsp.results = some r ∧
      step s = .next { s with env := { s.env with acts := rest, taken := s.env.taken ++ [⟨.ok, some r⟩] } }))

/-! ### Invariants -/

/-- 10_state.md R22, R26: every step keeps `rsp.valid` 0 while a command is in progress and the result bytes present
exactly under `OK`; and only an RTC command whose operands are in range is ever left with a failed transaction. (The
clauses on `phase` are about the model's own field, DESIGN CHOICE, assumption log 5.) -/
def Obligations.PortInvariantKept : Prop :=
  ∀ s t : State, PortInv s → step s = .next t → PortInv t

/-- 20_memory.md R51, 00_scope.md R7: every step keeps the memories in canonical form and the register image addresses
pairwise distinct. -/
def Obligations.MemoryInvariantKept : Prop :=
  ∀ s t : State, MemInv s → step s = .next t → MemInv t

/-- 42_lcd.md R161, R163, 10_state.md R27, R28: every step keeps the LCD invariant: `Initializing` exactly while
`LCD_INIT` is in progress, every line driven in `Ready` and none configured before any `LCD_INIT`, RW never high, EN
high only inside a pulse of the command in progress. (That `Initializing` begins with the acceptance is DEDUCED,
assumption log 9, and the byte of `LCD_STR` stands in the model's own `held`, DESIGN CHOICE, assumption log 13.) -/
def Obligations.LcdInvariantKept : Prop :=
  ∀ s t : State, LcdInv s → step s = .next t → LcdInv t

/-- The three invariants hold right after reset. Two parts rest on values that the model chose: that the status is `OK`
with result bytes present, which 10_state.md R44 leaves unspecified (DESIGN CHOICE, assumption log 7), and the distinct
default addresses (PRESUMED, assumption log 14). -/
def Obligations.InvariantsHoldAtReset : Prop :=
  PortInv State.reset ∧ MemInv State.reset ∧ LcdInv State.reset

/-! ### The RTC chip's registers -/

/-- 41_rtc.md R134, R136, R137, R139 with the chip of 20_memory.md R66: against `SimRTC` each set command leaves its own
registers at the bytes it writes and every other register as it was, and the get commands change no register. -/
def Obligations.RtcCommandsOnChipRegisters : Prop :=
  (∀ (s : State) (chip : SimRtc) (sec min hr fmt : Byte), AtStart s → s.env.busHung = false → s.params.wf →
    chip.wf = true → s.env.bus = .sim [] chip → validTime sec min hr fmt = true →
    ∃ (t : State) (chip' : SimRtc), runCommand (.rtcSetTime sec min hr fmt) 4 s = .next t ∧ t.busy = false ∧
      t.rsp = { valid := true, status := .ok, results := some ⟨0#8, 0#8, 0#8, 0#8⟩ } ∧ t.env.bus = .sim [] chip' ∧
      chip'.regAt s.params.regSeconds = bcdByte sec ∧ chip'.regAt s.params.regMinutes = bcdByte min ∧
      chip'.regAt s.params.regHours = hoursByte hr fmt ∧
      ∀ a : Byte, a ≠ s.params.regSeconds → a ≠ s.params.regMinutes → a ≠ s.params.regHours →
        chip'.regAt a = chip.regAt a) ∧
  (∀ (s : State) (chip : SimRtc) (d mo y w : Byte), AtStart s → s.env.busHung = false → s.params.wf →
    chip.wf = true → s.env.bus = .sim [] chip → validDate d mo y w = true →
    ∃ (t : State) (chip' : SimRtc), runCommand (.rtcSetDate d mo y w) 5 s = .next t ∧ t.busy = false ∧
      t.rsp = { valid := true, status := .ok, results := some ⟨0#8, 0#8, 0#8, 0#8⟩ } ∧ t.env.bus = .sim [] chip' ∧
      chip'.regAt s.params.regDate = bcdByte d ∧ chip'.regAt s.params.regMonth = bcdByte mo ∧
      chip'.regAt s.params.regYear = bcdByte y ∧ chip'.regAt s.params.regWeekday = bcdByte w ∧
      ∀ a : Byte, a ≠ s.params.regDate → a ≠ s.params.regMonth → a ≠ s.params.regYear → a ≠ s.params.regWeekday →
        chip'.regAt a = chip.regAt a) ∧
  (∀ (s : State) (chip : SimRtc), AtStart s → s.env.busHung = false → chip.wf = true → s.env.bus = .sim [] chip →
    (∃ (t : State) (chip' : SimRtc), runCommand .rtcGetTime 7 s = .next t ∧ t.busy = false ∧
      t.rsp.status = .ok ∧ t.env.bus = .sim [] chip' ∧ ∀ a : Byte, chip'.regAt a = chip.regAt a) ∧
    (∃ (t : State) (chip' : SimRtc), runCommand .rtcGetDate 9 s = .next t ∧ t.busy = false ∧
      t.rsp.status = .ok ∧ t.env.bus = .sim [] chip' ∧ ∀ a : Byte, chip'.regAt a = chip.regAt a))
end

