-- ==== Sys2Proof/Laws/Cells.lean ====
section
/-! SUPPORT. The laws of sparse bytes: read after write, the canonical form is kept, equal contents are equal data. -/

namespace Sys2Proof.Machine

/-- A read after a write: the byte written at its address, the old byte at every other. -/
theorem Cells.read_write (d : Byte) (c : Cells) (a x : Nat) (b : Byte) {lo bound : Nat}
    (h : Cells.wfFrom d bound lo c = true) :
    Cells.read d (Cells.write d c a b) x = if x = a then b else Cells.read d c x := by
  induction c generalizing lo with
  | nil =>
    unfold Cells.write
    by_cases hx : x = a
    · subst hx; split <;> simp_all [Cells.read]
    · have : a ≠ x := fun h => hx h.symm
      split <;> simp [Cells.read, this]
  | cons e rest ih =>
    obtain ⟨k, v⟩ := e
    simp only [Cells.wfFrom, Bool.and_eq_true, decide_eq_true_eq] at h
    obtain ⟨⟨⟨h1, h2⟩, h3⟩, h4⟩ := h
    have low : ∀ (c : Cells) (lo y : Nat), Cells.wfFrom d bound lo c = true → y < lo → Cells.read d c y = d := by
      intro c
      induction c with
      | nil => intros; rfl
      | cons e r ihc =>
        obtain ⟨k', v'⟩ := e
        intro lo y hw hy
        simp only [Cells.wfFrom, Bool.and_eq_true, decide_eq_true_eq] at hw
        have : k' ≠ y := by omega
        simp only [Cells.read, this, if_false]
        exact ihc _ _ hw.2 (by omega)
    have hrest := low rest (k + 1)
    unfold Cells.write
    split
    · split
      · rename_i hak hb
        simp only [Cells.read]
        by_cases hx : x = a
        · subst hx
          have : k ≠ x := by omega
          simp [this, hrest x h4 (by omega), hb]
        · simp [hx]
      · simp only [Cells.read]
        by_cases hx : x = a
        · subst hx; simp
        · have : a ≠ x := fun h => hx h.symm
          simp [hx, this]
    · split
      · rename_i hak hEq
        subst hEq
        split
        · rename_i hb
          by_cases hx : x = a
          · subst hx; simp [hb, hrest x h4 (by omega)]
          · have : a ≠ x := fun h => hx h.symm
            simp [Cells.read, hx, this]
        · by_cases hx : x = a
          · subst hx; simp [Cells.read]
          · have : a ≠ x := fun h => hx h.symm
            simp [Cells.read, hx, this]
      · simp only [Cells.read, ih h4]
        by_cases hk : k = x
        · subst hk
          have : k ≠ a := by omega
          simp [this]
        · simp [hk]

/-- A write keeps the canonical form. -/
theorem Cells.write_wfFrom (d : Byte) (bound : Nat) (c : Cells) (a : Nat) (b : Byte) {lo : Nat}
    (h : Cells.wfFrom d bound lo c = true) (hlo : lo ≤ a) (ha : a < bound) :
    Cells.wfFrom d bound lo (Cells.write d c a b) = true := by
  induction c generalizing lo with
  | nil => unfold Cells.write; split <;> simp_all [Cells.wfFrom]
  | cons e rest ih =>
    obtain ⟨k, v⟩ := e
    have h' := h
    simp only [Cells.wfFrom, Bool.and_eq_true, decide_eq_true_eq] at h'
    obtain ⟨⟨⟨h1, h2⟩, h3⟩, h4⟩ := h'
    have loosen : ∀ (c : Cells) (lo lo' : Nat), Cells.wfFrom d bound lo c = true → lo' ≤ lo →
        Cells.wfFrom d bound lo' c = true := by
      intro c
      cases c with
      | nil => intros; rfl
      | cons e r =>
        obtain ⟨k', v'⟩ := e
        intro lo lo' hw hl
        simp only [Cells.wfFrom, Bool.and_eq_true, decide_eq_true_eq] at hw ⊢
        exact ⟨⟨⟨by omega, hw.1.1.2⟩, hw.1.2⟩, hw.2⟩
    unfold Cells.write
    split
    · split
      · exact h
      · rename_i hak hb
        simp only [Cells.wfFrom, Bool.and_eq_true, decide_eq_true_eq]
        exact ⟨⟨⟨hlo, ha⟩, by simpa using hb⟩, ⟨⟨by omega, h2⟩, h3⟩, h4⟩
    · split
      · rename_i hak hEq
        split
        · exact loosen rest (k + 1) lo h4 (by omega)
        · rename_i hb
          simp only [Cells.wfFrom, Bool.and_eq_true, decide_eq_true_eq]
          exact ⟨⟨⟨hlo, ha⟩, by simpa using hb⟩, hEq ▸ h4⟩
      · simp only [Cells.wfFrom, Bool.and_eq_true, decide_eq_true_eq]
        exact ⟨⟨⟨h1, h2⟩, h3⟩, ih h4 (by omega)⟩

/-- Every write of the string memory keeps its canonical form. -/
theorem Memory.write_wf (m : Cells) (a : StrAddr) (v : Byte) (h : Memory.wf m = true) :
    Memory.wf (Memory.write m a v) = true :=
  Cells.write_wfFrom _ _ _ _ _ h (Nat.zero_le _) a.isLt

/-- A read after a write of the string memory. -/
theorem Memory.read_write (m : Cells) (a x : StrAddr) (v : Byte) (h : Memory.wf m = true) :
    Memory.read (Memory.write m a v) x = if x = a then v else Memory.read m x := by
  unfold Memory.read Memory.write
  rw [Cells.read_write _ _ _ _ _ h]
  simp only [BitVec.toNat_inj]

/-- Setting a register keeps the fixture's canonical form. -/
theorem SimRtc.setReg_wf (c : SimRtc) (a v : Byte) (h : c.wf = true) : (c.setReg a v).wf = true :=
  Cells.write_wfFrom _ _ _ _ _ h (Nat.zero_le _) a.isLt

/-- A register read after a register write of the fixture. -/
theorem SimRtc.regAt_setReg (c : SimRtc) (a x v : Byte) (h : c.wf = true) :
    (c.setReg a v).regAt x = if x = a then v else c.regAt x := by
  unfold SimRtc.regAt SimRtc.setReg
  rw [Cells.read_write _ _ _ _ _ h]
  simp only [BitVec.toNat_inj]

/-- The pointer is no register: setting it changes no register. -/
@[simp] theorem SimRtc.regAt_ptr (c : SimRtc) (p x : Byte) : ({ c with ptr := p } : SimRtc).regAt x = c.regAt x := rfl

@[simp] theorem SimRtc.wf_ptr (c : SimRtc) (p : Byte) : ({ c with ptr := p } : SimRtc).wf = c.wf := rfl

/-- An answer of the fixture keeps its canonical form. -/
theorem SimRtc.answer_wf (own : DevAddr) (q : BusReq) (c : SimRtc) (h : c.wf = true) : (c.answer own q).2.wf = true := by
  unfold SimRtc.answer
  split <;> try split
  all_goals first | exact h | exact SimRtc.setReg_wf c _ _ h

end Sys2Proof.Machine
end

