-- ==== Sys2Proof/Laws/State.lean ====
section
/-! SUPPORT. One lemma per field of State per named update of it, so that no later proof unfolds an update. -/

namespace Sys2Proof.Machine

variable (s : State)

/-! `State.withEnv` -/

@[simp] theorem withEnv_busy (e : Env) : (s.withEnv e).busy = s.busy := rfl
@[simp] theorem withEnv_cmd (e : Env) : (s.withEnv e).cmd = s.cmd := rfl
@[simp] theorem withEnv_seq (e : Env) : (s.withEnv e).seq = s.seq := rfl
@[simp] theorem withEnv_rsp (e : Env) : (s.withEnv e).rsp = s.rsp := rfl
@[simp] theorem withEnv_lcdState (e : Env) : (s.withEnv e).lcdState = s.lcdState := rfl
@[simp] theorem withEnv_lines (e : Env) : (s.withEnv e).lines = s.lines := rfl
@[simp] theorem withEnv_scratch (e : Env) : (s.withEnv e).scratch = s.scratch := rfl
@[simp] theorem withEnv_strPtr (e : Env) : (s.withEnv e).strPtr = s.strPtr := rfl
@[simp] theorem withEnv_held (e : Env) : (s.withEnv e).held = s.held := rfl
@[simp] theorem withEnv_readBack (e : Env) : (s.withEnv e).readBack = s.readBack := rfl
@[simp] theorem withEnv_phase (e : Env) : (s.withEnv e).phase = s.phase := rfl
@[simp] theorem withEnv_params (e : Env) : (s.withEnv e).params = s.params := rfl
@[simp] theorem withEnv_trace (e : Env) : (s.withEnv e).trace = s.trace := rfl
@[simp] theorem withEnv_env (e : Env) : (s.withEnv e).env = e := rfl

/-! `State.setLine` -/

@[simp] theorem setLine_busy (l : Line) (v : LineLevel) : (s.setLine l v).busy = s.busy := rfl
@[simp] theorem setLine_cmd (l : Line) (v : LineLevel) : (s.setLine l v).cmd = s.cmd := rfl
@[simp] theorem setLine_seq (l : Line) (v : LineLevel) : (s.setLine l v).seq = s.seq := rfl
@[simp] theorem setLine_rsp (l : Line) (v : LineLevel) : (s.setLine l v).rsp = s.rsp := rfl
@[simp] theorem setLine_lcdState (l : Line) (v : LineLevel) : (s.setLine l v).lcdState = s.lcdState := rfl
@[simp] theorem setLine_lines (l : Line) (v : LineLevel) : (s.setLine l v).lines = s.lines.set l v := rfl
@[simp] theorem setLine_scratch (l : Line) (v : LineLevel) : (s.setLine l v).scratch = s.scratch := rfl
@[simp] theorem setLine_strPtr (l : Line) (v : LineLevel) : (s.setLine l v).strPtr = s.strPtr := rfl
@[simp] theorem setLine_held (l : Line) (v : LineLevel) : (s.setLine l v).held = s.held := rfl
@[simp] theorem setLine_readBack (l : Line) (v : LineLevel) : (s.setLine l v).readBack = s.readBack := rfl
@[simp] theorem setLine_phase (l : Line) (v : LineLevel) : (s.setLine l v).phase = s.phase := rfl
@[simp] theorem setLine_params (l : Line) (v : LineLevel) : (s.setLine l v).params = s.params := rfl
@[simp] theorem setLine_trace (l : Line) (v : LineLevel) : (s.setLine l v).trace = s.trace := rfl
@[simp] theorem setLine_env (l : Line) (v : LineLevel) : (s.setLine l v).env = s.env := rfl

/-! `State.setLcd` -/

@[simp] theorem setLcd_busy (v : LcdState) : (s.setLcd v).busy = s.busy := rfl
@[simp] theorem setLcd_cmd (v : LcdState) : (s.setLcd v).cmd = s.cmd := rfl
@[simp] theorem setLcd_seq (v : LcdState) : (s.setLcd v).seq = s.seq := rfl
@[simp] theorem setLcd_rsp (v : LcdState) : (s.setLcd v).rsp = s.rsp := rfl
@[simp] theorem setLcd_lcdState (v : LcdState) : (s.setLcd v).lcdState = v := rfl
@[simp] theorem setLcd_lines (v : LcdState) : (s.setLcd v).lines = s.lines := rfl
@[simp] theorem setLcd_scratch (v : LcdState) : (s.setLcd v).scratch = s.scratch := rfl
@[simp] theorem setLcd_strPtr (v : LcdState) : (s.setLcd v).strPtr = s.strPtr := rfl
@[simp] theorem setLcd_held (v : LcdState) : (s.setLcd v).held = s.held := rfl
@[simp] theorem setLcd_readBack (v : LcdState) : (s.setLcd v).readBack = s.readBack := rfl
@[simp] theorem setLcd_phase (v : LcdState) : (s.setLcd v).phase = s.phase := rfl
@[simp] theorem setLcd_params (v : LcdState) : (s.setLcd v).params = s.params := rfl
@[simp] theorem setLcd_trace (v : LcdState) : (s.setLcd v).trace = s.trace := rfl
@[simp] theorem setLcd_env (v : LcdState) : (s.setLcd v).env = s.env := rfl

/-! `State.record` -/

@[simp] theorem record_busy (e : Event) : (s.record e).busy = s.busy := rfl
@[simp] theorem record_cmd (e : Event) : (s.record e).cmd = s.cmd := rfl
@[simp] theorem record_seq (e : Event) : (s.record e).seq = s.seq := rfl
@[simp] theorem record_rsp (e : Event) : (s.record e).rsp = s.rsp := rfl
@[simp] theorem record_lcdState (e : Event) : (s.record e).lcdState = s.lcdState := rfl
@[simp] theorem record_lines (e : Event) : (s.record e).lines = s.lines := rfl
@[simp] theorem record_scratch (e : Event) : (s.record e).scratch = s.scratch := rfl
@[simp] theorem record_strPtr (e : Event) : (s.record e).strPtr = s.strPtr := rfl
@[simp] theorem record_held (e : Event) : (s.record e).held = s.held := rfl
@[simp] theorem record_readBack (e : Event) : (s.record e).readBack = s.readBack := rfl
@[simp] theorem record_phase (e : Event) : (s.record e).phase = s.phase := rfl
@[simp] theorem record_params (e : Event) : (s.record e).params = s.params := rfl
@[simp] theorem record_trace (e : Event) : (s.record e).trace = s.trace ++ [e] := rfl
@[simp] theorem record_env (e : Event) : (s.record e).env = s.env := rfl

/-! `State.advance` -/

@[simp] theorem advance_busy : (s.advance).busy = s.busy := rfl
@[simp] theorem advance_cmd : (s.advance).cmd = s.cmd := rfl
@[simp] theorem advance_seq : (s.advance).seq = s.seq + 1 := rfl
@[simp] theorem advance_rsp : (s.advance).rsp = s.rsp := rfl
@[simp] theorem advance_lcdState : (s.advance).lcdState = s.lcdState := rfl
@[simp] theorem advance_lines : (s.advance).lines = s.lines := rfl
@[simp] theorem advance_scratch : (s.advance).scratch = s.scratch := rfl
@[simp] theorem advance_strPtr : (s.advance).strPtr = s.strPtr := rfl
@[simp] theorem advance_held : (s.advance).held = s.held := rfl
@[simp] theorem advance_readBack : (s.advance).readBack = s.readBack := rfl
@[simp] theorem advance_phase : (s.advance).phase = .fresh := rfl
@[simp] theorem advance_params : (s.advance).params = s.params := rfl
@[simp] theorem advance_trace : (s.advance).trace = s.trace := rfl
@[simp] theorem advance_env : (s.advance).env = s.env := rfl

/-! `State.await` -/

@[simp] theorem await_busy : (s.await).busy = s.busy := rfl
@[simp] theorem await_cmd : (s.await).cmd = s.cmd := rfl
@[simp] theorem await_seq : (s.await).seq = s.seq := rfl
@[simp] theorem await_rsp : (s.await).rsp = s.rsp := rfl
@[simp] theorem await_lcdState : (s.await).lcdState = s.lcdState := rfl
@[simp] theorem await_lines : (s.await).lines = s.lines := rfl
@[simp] theorem await_scratch : (s.await).scratch = s.scratch := rfl
@[simp] theorem await_strPtr : (s.await).strPtr = s.strPtr := rfl
@[simp] theorem await_held : (s.await).held = s.held := rfl
@[simp] theorem await_readBack : (s.await).readBack = s.readBack := rfl
@[simp] theorem await_phase : (s.await).phase = .issued := rfl
@[simp] theorem await_params : (s.await).params = s.params := rfl
@[simp] theorem await_trace : (s.await).trace = s.trace := rfl
@[simp] theorem await_env : (s.await).env = s.env := rfl

/-! `State.failOp` -/

@[simp] theorem failOp_busy : (s.failOp).busy = s.busy := rfl
@[simp] theorem failOp_cmd : (s.failOp).cmd = s.cmd := rfl
@[simp] theorem failOp_seq : (s.failOp).seq = s.seq + 1 := rfl
@[simp] theorem failOp_rsp : (s.failOp).rsp = s.rsp := rfl
@[simp] theorem failOp_lcdState : (s.failOp).lcdState = s.lcdState := rfl
@[simp] theorem failOp_lines : (s.failOp).lines = s.lines := rfl
@[simp] theorem failOp_scratch : (s.failOp).scratch = s.scratch := rfl
@[simp] theorem failOp_strPtr : (s.failOp).strPtr = s.strPtr := rfl
@[simp] theorem failOp_held : (s.failOp).held = s.held := rfl
@[simp] theorem failOp_readBack : (s.failOp).readBack = s.readBack := rfl
@[simp] theorem failOp_phase : (s.failOp).phase = .failed := rfl
@[simp] theorem failOp_params : (s.failOp).params = s.params := rfl
@[simp] theorem failOp_trace : (s.failOp).trace = s.trace := rfl
@[simp] theorem failOp_env : (s.failOp).env = s.env := rfl

/-! `respond` -/

@[simp] theorem respond_busy (st : Status) (res : Option Results) : (respond st res s).busy = false := rfl
@[simp] theorem respond_cmd (st : Status) (res : Option Results) : (respond st res s).cmd = s.cmd := rfl
@[simp] theorem respond_seq (st : Status) (res : Option Results) : (respond st res s).seq = s.seq := rfl
@[simp] theorem respond_rsp (st : Status) (res : Option Results) : (respond st res s).rsp = { valid := true, status := st, results := res } := rfl
@[simp] theorem respond_lcdState (st : Status) (res : Option Results) : (respond st res s).lcdState = s.lcdState := rfl
@[simp] theorem respond_lines (st : Status) (res : Option Results) : (respond st res s).lines = s.lines := rfl
@[simp] theorem respond_scratch (st : Status) (res : Option Results) : (respond st res s).scratch = s.scratch := rfl
@[simp] theorem respond_strPtr (st : Status) (res : Option Results) : (respond st res s).strPtr = s.strPtr := rfl
@[simp] theorem respond_held (st : Status) (res : Option Results) : (respond st res s).held = s.held := rfl
@[simp] theorem respond_readBack (st : Status) (res : Option Results) : (respond st res s).readBack = s.readBack := rfl
@[simp] theorem respond_phase (st : Status) (res : Option Results) : (respond st res s).phase = .fresh := rfl
@[simp] theorem respond_params (st : Status) (res : Option Results) : (respond st res s).params = s.params := rfl
@[simp] theorem respond_trace (st : Status) (res : Option Results) : (respond st res s).trace = s.trace ++ [.response st res] := rfl
@[simp] theorem respond_env (st : Status) (res : Option Results) : (respond st res s).env = s.env := rfl

/-! `respondOk` -/

@[simp] theorem respondOk_busy (res : Results) : (respondOk res s).busy = false := rfl
@[simp] theorem respondOk_cmd (res : Results) : (respondOk res s).cmd = s.cmd := rfl
@[simp] theorem respondOk_seq (res : Results) : (respondOk res s).seq = s.seq := rfl
@[simp] theorem respondOk_rsp (res : Results) : (respondOk res s).rsp = { valid := true, status := .ok, results := some res } := rfl
@[simp] theorem respondOk_lcdState (res : Results) : (respondOk res s).lcdState = s.lcdState := rfl
@[simp] theorem respondOk_lines (res : Results) : (respondOk res s).lines = s.lines := rfl
@[simp] theorem respondOk_scratch (res : Results) : (respondOk res s).scratch = s.scratch := rfl
@[simp] theorem respondOk_strPtr (res : Results) : (respondOk res s).strPtr = s.strPtr := rfl
@[simp] theorem respondOk_held (res : Results) : (respondOk res s).held = s.held := rfl
@[simp] theorem respondOk_readBack (res : Results) : (respondOk res s).readBack = s.readBack := rfl
@[simp] theorem respondOk_phase (res : Results) : (respondOk res s).phase = .fresh := rfl
@[simp] theorem respondOk_params (res : Results) : (respondOk res s).params = s.params := rfl
@[simp] theorem respondOk_trace (res : Results) : (respondOk res s).trace = s.trace ++ [.response .ok (some res)] := rfl
@[simp] theorem respondOk_env (res : Results) : (respondOk res s).env = s.env := rfl

/-! `raise` -/

@[simp] theorem raise_busy (st : Status) : (raise st s).busy = false := rfl
@[simp] theorem raise_cmd (st : Status) : (raise st s).cmd = s.cmd := rfl
@[simp] theorem raise_seq (st : Status) : (raise st s).seq = s.seq := rfl
@[simp] theorem raise_rsp (st : Status) : (raise st s).rsp = { valid := true, status := st, results := none } := rfl
@[simp] theorem raise_lcdState (st : Status) : (raise st s).lcdState = s.lcdState := rfl
@[simp] theorem raise_lines (st : Status) : (raise st s).lines = s.lines := rfl
@[simp] theorem raise_scratch (st : Status) : (raise st s).scratch = s.scratch := rfl
@[simp] theorem raise_strPtr (st : Status) : (raise st s).strPtr = s.strPtr := rfl
@[simp] theorem raise_held (st : Status) : (raise st s).held = s.held := rfl
@[simp] theorem raise_readBack (st : Status) : (raise st s).readBack = s.readBack := rfl
@[simp] theorem raise_phase (st : Status) : (raise st s).phase = .fresh := rfl
@[simp] theorem raise_params (st : Status) : (raise st s).params = s.params := rfl
@[simp] theorem raise_trace (st : Status) : (raise st s).trace = s.trace ++ [.response st none] := rfl
@[simp] theorem raise_env (st : Status) : (raise st s).env = s.env := rfl

/-! `latchCommand` -/

@[simp] theorem latchCommand_busy (w : Word40) : (latchCommand w s).busy = true := rfl
@[simp] theorem latchCommand_cmd (w : Word40) : (latchCommand w s).cmd = w := rfl
@[simp] theorem latchCommand_seq (w : Word40) : (latchCommand w s).seq = 0 := rfl
@[simp] theorem latchCommand_rsp (w : Word40) : (latchCommand w s).rsp = { s.rsp with valid := false } := rfl
@[simp] theorem latchCommand_lcdState (w : Word40) : (latchCommand w s).lcdState = s.lcdState := rfl
@[simp] theorem latchCommand_lines (w : Word40) : (latchCommand w s).lines = s.lines := rfl
@[simp] theorem latchCommand_scratch (w : Word40) : (latchCommand w s).scratch = s.scratch := rfl
@[simp] theorem latchCommand_strPtr (w : Word40) : (latchCommand w s).strPtr = s.strPtr := rfl
@[simp] theorem latchCommand_held (w : Word40) : (latchCommand w s).held = s.held := rfl
@[simp] theorem latchCommand_readBack (w : Word40) : (latchCommand w s).readBack = s.readBack := rfl
@[simp] theorem latchCommand_phase (w : Word40) : (latchCommand w s).phase = .fresh := rfl
@[simp] theorem latchCommand_params (w : Word40) : (latchCommand w s).params = s.params := rfl
@[simp] theorem latchCommand_trace (w : Word40) : (latchCommand w s).trace = s.trace ++ [.accept w] := rfl
@[simp] theorem latchCommand_env (w : Word40) : (latchCommand w s).env = s.env := rfl

/-! `resetBlock` -/

@[simp] theorem resetBlock_busy : (resetBlock s).busy = State.reset.busy := rfl
@[simp] theorem resetBlock_cmd : (resetBlock s).cmd = State.reset.cmd := rfl
@[simp] theorem resetBlock_seq : (resetBlock s).seq = State.reset.seq := rfl
@[simp] theorem resetBlock_rsp : (resetBlock s).rsp = State.reset.rsp := rfl
@[simp] theorem resetBlock_lcdState : (resetBlock s).lcdState = State.reset.lcdState := rfl
@[simp] theorem resetBlock_lines : (resetBlock s).lines = State.reset.lines := rfl
@[simp] theorem resetBlock_scratch : (resetBlock s).scratch = State.reset.scratch := rfl
@[simp] theorem resetBlock_strPtr : (resetBlock s).strPtr = State.reset.strPtr := rfl
@[simp] theorem resetBlock_held : (resetBlock s).held = State.reset.held := rfl
@[simp] theorem resetBlock_readBack : (resetBlock s).readBack = State.reset.readBack := rfl
@[simp] theorem resetBlock_phase : (resetBlock s).phase = State.reset.phase := rfl
@[simp] theorem resetBlock_params : (resetBlock s).params = s.params := rfl
@[simp] theorem resetBlock_trace : (resetBlock s).trace = s.trace ++ [.reset] := rfl
@[simp] theorem resetBlock_env : (resetBlock s).env = s.env := rfl

/-! `State.dropAct` -/

@[simp] theorem dropAct_busy : (s.dropAct).busy = s.busy := rfl
@[simp] theorem dropAct_cmd : (s.dropAct).cmd = s.cmd := rfl
@[simp] theorem dropAct_seq : (s.dropAct).seq = s.seq := rfl
@[simp] theorem dropAct_rsp : (s.dropAct).rsp = s.rsp := rfl
@[simp] theorem dropAct_lcdState : (s.dropAct).lcdState = s.lcdState := rfl
@[simp] theorem dropAct_lines : (s.dropAct).lines = s.lines := rfl
@[simp] theorem dropAct_scratch : (s.dropAct).scratch = s.scratch := rfl
@[simp] theorem dropAct_strPtr : (s.dropAct).strPtr = s.strPtr := rfl
@[simp] theorem dropAct_held : (s.dropAct).held = s.held := rfl
@[simp] theorem dropAct_readBack : (s.dropAct).readBack = s.readBack := rfl
@[simp] theorem dropAct_phase : (s.dropAct).phase = s.phase := rfl
@[simp] theorem dropAct_params : (s.dropAct).params = s.params := rfl
@[simp] theorem dropAct_trace : (s.dropAct).trace = s.trace := rfl
@[simp] theorem dropAct_env : (s.dropAct).env = { s.env with acts := s.env.acts.tail } := rfl

/-! `State.issue` -/

@[simp] theorem issue_busy (e : Event) : (s.issue e).busy = s.busy := by unfold State.issue; split <;> simp_all
@[simp] theorem issue_cmd (e : Event) : (s.issue e).cmd = s.cmd := by unfold State.issue; split <;> simp_all
@[simp] theorem issue_seq (e : Event) : (s.issue e).seq = s.seq := by unfold State.issue; split <;> simp_all
@[simp] theorem issue_rsp (e : Event) : (s.issue e).rsp = s.rsp := by unfold State.issue; split <;> simp_all
@[simp] theorem issue_lcdState (e : Event) : (s.issue e).lcdState = s.lcdState := by unfold State.issue; split <;> simp_all
@[simp] theorem issue_lines (e : Event) : (s.issue e).lines = s.lines := by unfold State.issue; split <;> simp_all
@[simp] theorem issue_scratch (e : Event) : (s.issue e).scratch = s.scratch := by unfold State.issue; split <;> simp_all
@[simp] theorem issue_strPtr (e : Event) : (s.issue e).strPtr = s.strPtr := by unfold State.issue; split <;> simp_all
@[simp] theorem issue_held (e : Event) : (s.issue e).held = s.held := by unfold State.issue; split <;> simp_all
@[simp] theorem issue_readBack (e : Event) : (s.issue e).readBack = s.readBack := by unfold State.issue; split <;> simp_all
@[simp] theorem issue_phase (e : Event) : (s.issue e).phase = s.phase := by unfold State.issue; split <;> simp_all
@[simp] theorem issue_params (e : Event) : (s.issue e).params = s.params := by unfold State.issue; split <;> simp_all
@[simp] theorem issue_trace (e : Event) : (s.issue e).trace = if s.phase = .issued then s.trace else s.trace ++ [e] := by unfold State.issue; split <;> simp_all
@[simp] theorem issue_env (e : Event) : (s.issue e).env = s.env := by unfold State.issue; split <;> simp_all

/-! `State.keep` -/

@[simp] theorem keep_busy (d : ReadDest) (b : Byte) : (s.keep d b).busy = s.busy := by cases d <;> rfl
@[simp] theorem keep_cmd (d : ReadDest) (b : Byte) : (s.keep d b).cmd = s.cmd := by cases d <;> rfl
@[simp] theorem keep_seq (d : ReadDest) (b : Byte) : (s.keep d b).seq = s.seq := by cases d <;> rfl
@[simp] theorem keep_rsp (d : ReadDest) (b : Byte) : (s.keep d b).rsp = s.rsp := by cases d <;> rfl
@[simp] theorem keep_lcdState (d : ReadDest) (b : Byte) : (s.keep d b).lcdState = s.lcdState := by cases d <;> rfl
@[simp] theorem keep_lines (d : ReadDest) (b : Byte) : (s.keep d b).lines = s.lines := by cases d <;> rfl
@[simp] theorem keep_strPtr (d : ReadDest) (b : Byte) : (s.keep d b).strPtr = s.strPtr := by cases d <;> rfl
@[simp] theorem keep_phase (d : ReadDest) (b : Byte) : (s.keep d b).phase = s.phase := by cases d <;> rfl
@[simp] theorem keep_params (d : ReadDest) (b : Byte) : (s.keep d b).params = s.params := by cases d <;> rfl
@[simp] theorem keep_trace (d : ReadDest) (b : Byte) : (s.keep d b).trace = s.trace := by cases d <;> rfl
@[simp] theorem keep_env (d : ReadDest) (b : Byte) : (s.keep d b).env = s.env := by cases d <;> rfl

/-! `enterCommand` -/

@[simp] theorem enterCommand_busy : (enterCommand s).busy = s.busy := by unfold enterCommand; split <;> rfl
@[simp] theorem enterCommand_cmd : (enterCommand s).cmd = s.cmd := by unfold enterCommand; split <;> rfl
@[simp] theorem enterCommand_seq : (enterCommand s).seq = s.seq := by unfold enterCommand; split <;> rfl
@[simp] theorem enterCommand_rsp : (enterCommand s).rsp = s.rsp := by unfold enterCommand; split <;> rfl
@[simp] theorem enterCommand_lines : (enterCommand s).lines = s.lines := by unfold enterCommand; split <;> rfl
@[simp] theorem enterCommand_scratch : (enterCommand s).scratch = s.scratch := by unfold enterCommand; split <;> rfl
@[simp] theorem enterCommand_strPtr : (enterCommand s).strPtr = s.strPtr := by unfold enterCommand; split <;> rfl
@[simp] theorem enterCommand_held : (enterCommand s).held = s.held := by unfold enterCommand; split <;> rfl
@[simp] theorem enterCommand_readBack : (enterCommand s).readBack = s.readBack := by unfold enterCommand; split <;> rfl
@[simp] theorem enterCommand_phase : (enterCommand s).phase = s.phase := by unfold enterCommand; split <;> rfl
@[simp] theorem enterCommand_params : (enterCommand s).params = s.params := by unfold enterCommand; split <;> rfl
@[simp] theorem enterCommand_trace : (enterCommand s).trace = s.trace := by unfold enterCommand; split <;> rfl
@[simp] theorem enterCommand_env : (enterCommand s).env = s.env := by unfold enterCommand; split <;> rfl

/-! `accept` -/

@[simp] theorem accept_busy (w : Word40) : (accept w s).busy = true := by simp [accept]
@[simp] theorem accept_cmd (w : Word40) : (accept w s).cmd = w := by simp [accept]
@[simp] theorem accept_seq (w : Word40) : (accept w s).seq = 0 := by simp [accept]
@[simp] theorem accept_rsp (w : Word40) : (accept w s).rsp = { s.rsp with valid := false } := by simp [accept]
@[simp] theorem accept_lines (w : Word40) : (accept w s).lines = s.lines := by simp [accept]
@[simp] theorem accept_scratch (w : Word40) : (accept w s).scratch = s.scratch := by simp [accept]
@[simp] theorem accept_strPtr (w : Word40) : (accept w s).strPtr = s.strPtr := by simp [accept]
@[simp] theorem accept_held (w : Word40) : (accept w s).held = s.held := by simp [accept]
@[simp] theorem accept_readBack (w : Word40) : (accept w s).readBack = s.readBack := by simp [accept]
@[simp] theorem accept_phase (w : Word40) : (accept w s).phase = .fresh := by simp [accept]
@[simp] theorem accept_params (w : Word40) : (accept w s).params = s.params := by simp [accept]
@[simp] theorem accept_trace (w : Word40) : (accept w s).trace = s.trace ++ [.accept w] := by simp [accept]
@[simp] theorem accept_env (w : Word40) : (accept w s).env = s.env := by simp [accept]

/-! The fields `keep` and dispatch write. -/

@[simp] theorem keep_held (d : ReadDest) (b : Byte) : (s.keep d b).held = s.held := by cases d <;> rfl
@[simp] theorem keep_readBack_readBack (b : Byte) : (s.keep .readBack b).readBack = b := rfl
@[simp] theorem keep_readBack_scratch (b : Byte) : (s.keep .readBack b).scratch = s.scratch := rfl
@[simp] theorem keep_scratch0 (b : Byte) : (s.keep .scratch0 b).scratch = { s.scratch with b0 := b } := rfl
@[simp] theorem keep_scratch1 (b : Byte) : (s.keep .scratch1 b).scratch = { s.scratch with b1 := b } := rfl
@[simp] theorem keep_scratch2 (b : Byte) : (s.keep .scratch2 b).scratch = { s.scratch with b2 := b } := rfl
@[simp] theorem keep_scratch3 (b : Byte) : (s.keep .scratch3 b).scratch = { s.scratch with b3 := b } := rfl
@[simp] theorem keep_scratch0_readBack (b : Byte) : (s.keep .scratch0 b).readBack = s.readBack := rfl
@[simp] theorem keep_scratch1_readBack (b : Byte) : (s.keep .scratch1 b).readBack = s.readBack := rfl
@[simp] theorem keep_scratch2_readBack (b : Byte) : (s.keep .scratch2 b).readBack = s.readBack := rfl
@[simp] theorem keep_scratch3_readBack (b : Byte) : (s.keep .scratch3 b).readBack = s.readBack := rfl

/-- Dispatch enters `Initializing` for `LCD_INIT` and leaves `lcd_state` for every other word (42_lcd.md R161). -/
theorem enterCommand_lcdState :
    (enterCommand s).lcdState = if decode s.cmd = .instr .lcdInit then .initializing else s.lcdState := by
  unfold enterCommand; split <;> simp_all

theorem accept_lcdState (w : Word40) :
    (accept w s).lcdState = if decode w = .instr .lcdInit then .initializing else s.lcdState := by
  exact enterCommand_lcdState (latchCommand w s)

/-! The lines. -/

@[simp] theorem Lines.get_set_same (ls : Lines) (l : Line) (v : LineLevel) : (ls.set l v).get l = v := by
  cases l <;> rfl

theorem Lines.get_set_other (ls : Lines) (l k : Line) (v : LineLevel) (h : k ≠ l) : (ls.set l v).get k = ls.get k := by
  cases l <;> cases k <;> first | rfl | exact absurd rfl h

theorem Lines.get_set (ls : Lines) (l k : Line) (v : LineLevel) :
    (ls.set l v).get k = if k = l then v else ls.get k := by
  split
  · subst k; simp
  · exact ls.get_set_other l k v ‹_›

end Sys2Proof.Machine
end

