-- ==== Sys2Proof/Laws/Ops.lean ====
section
/-! SUPPORT. What each shared operation can do, said once. -/

namespace Sys2Proof.Machine

/-! ### The bus collaborator -/

/-- An answer changes the bus and the counter of free answers, and nothing else outside. -/
theorem Env.answer_frame (own : DevAddr) (q : BusReq) (e : Env) :
    ∃ b n, (e.answer own q).2 = { e with bus := b, draws := n } := by
  unfold Env.answer
  split <;> exact ⟨_, _, rfl⟩

variable (own : DevAddr) (q : BusReq) (e : Env)

@[simp] theorem Env.answer_port : (e.answer own q).2.port = e.port := by
  obtain ⟨b, n, h⟩ := e.answer_frame own q; rw [h]
@[simp] theorem Env.answer_acts : (e.answer own q).2.acts = e.acts := by
  obtain ⟨b, n, h⟩ := e.answer_frame own q; rw [h]
@[simp] theorem Env.answer_busHung : (e.answer own q).2.busHung = e.busHung := by
  obtain ⟨b, n, h⟩ := e.answer_frame own q; rw [h]
@[simp] theorem Env.answer_delayHung : (e.answer own q).2.delayHung = e.delayHung := by
  obtain ⟨b, n, h⟩ := e.answer_frame own q; rw [h]
@[simp] theorem Env.answer_mem : (e.answer own q).2.mem = e.mem := by
  obtain ⟨b, n, h⟩ := e.answer_frame own q; rw [h]
@[simp] theorem Env.answer_taken : (e.answer own q).2.taken = e.taken := by
  obtain ⟨b, n, h⟩ := e.answer_frame own q; rw [h]

/-! ### Transactions and delays -/

variable (s : State)

/-- A silent bus: the transaction is issued and the block waits. -/
theorem transact_hung (f : Byte → State → State) (h : s.env.busHung = true) :
    transact q f s = (s.issue q.event).await := by simp [transact, h]

/-- An answered transaction: the byte is delivered and the block goes on. -/
theorem transact_ok (f : Byte → State → State) (b : Byte) (h : s.env.busHung = false)
    (ha : (s.env.answer s.params.devAddr q).1 = .ok b) :
    transact q f s = (f b ((s.issue q.event).withEnv (s.env.answer s.params.devAddr q).2)).advance := by
  unfold transact
  rw [if_neg (by simp [h])]
  split
  · rename_i b' e' he; rw [he] at ha ⊢; cases ha; rfl
  · rename_i e' he; rw [he] at ha; cases ha

/-- A failed transaction: it is complete, and the command has only its response left. -/
theorem transact_fail (f : Byte → State → State) (h : s.env.busHung = false)
    (ha : (s.env.answer s.params.devAddr q).1 = .fail) :
    transact q f s = ((s.issue q.event).withEnv (s.env.answer s.params.devAddr q).2).failOp := by
  unfold transact
  rw [if_neg (by simp [h])]
  split
  · rename_i b' e' he; rw [he] at ha; cases ha
  · rename_i e' he; rw [he]

/-- A delay that returns. -/
theorem delay_returns (e : Event) (h : s.env.delayHung = false) : delay e s = (s.issue e).advance := by
  simp [delay, h]

/-- A delay that does not return. -/
theorem delay_hung (e : Event) (h : s.env.delayHung = true) : delay e s = (s.issue e).await := by
  simp [delay, h]

/-! ### A micro-operation -/

/-- A micro-operation that has an answer records its event when it is issued. -/
def MicroOp.answered : MicroOp → Bool
  | .busWrite _ | .busRead _ | .delayUs _ | .delayMs _ => true
  | _ => false

/-- A bus transaction. -/
def MicroOp.isBus : MicroOp → Bool
  | .busWrite _ | .busRead _ => true
  | _ => false

/-- The trace after a micro-operation has been issued. -/
def MicroOp.traceAfter (op : MicroOp) (s : State) : List Event :=
  if op.answered = true ∧ s.phase = .issued then s.trace else s.trace ++ [op.event s.params.devAddr]

/-- Everything a micro-operation can do to the sequencing. The block stays busy and `rsp` as it is; the step goes on,
waits for an answer, or is left with a transaction that failed. -/
theorem perform_cases (op : MicroOp) (s : State) :
    (perform op s).busy = s.busy ∧ (perform op s).rsp = s.rsp ∧ (perform op s).trace = op.traceAfter s ∧
    (((perform op s).seq = s.seq + 1 ∧ (perform op s).phase = .fresh) ∨
     (op.answered = true ∧ (perform op s).seq = s.seq ∧ (perform op s).phase = .issued) ∨
     (op.isBus = true ∧ (perform op s).seq = s.seq + 1 ∧ (perform op s).phase = .failed)) := by
  have bus : ∀ (q : BusReq) (f : Byte → State → State),
      (∀ b t, (f b t).busy = t.busy ∧ (f b t).seq = t.seq ∧ (f b t).rsp = t.rsp ∧ (f b t).trace = t.trace) →
      let u := transact q f s
      u.busy = s.busy ∧ u.rsp = s.rsp ∧ u.trace = (if s.phase = .issued then s.trace else s.trace ++ [q.event]) ∧
      ((u.seq = s.seq + 1 ∧ u.phase = .fresh) ∨ (u.seq = s.seq ∧ u.phase = .issued) ∨
        (u.seq = s.seq + 1 ∧ u.phase = .failed)) := by
    intro q f hf
    by_cases hh : s.env.busHung = true
    · simp [transact_hung q s f hh]
    · have hh : s.env.busHung = false := by simpa using hh
      cases ha : (s.env.answer s.params.devAddr q).1 with
      | ok b =>
        have := hf b ((s.issue q.event).withEnv (s.env.answer s.params.devAddr q).2)
        rw [transact_ok q s f b hh ha]
        simp [this]
      | fail => rw [transact_fail q s f hh ha]; simp
  have del : ∀ e : Event,
      let u := delay e s
      u.busy = s.busy ∧ u.rsp = s.rsp ∧ u.trace = (if s.phase = .issued then s.trace else s.trace ++ [e]) ∧
      ((u.seq = s.seq + 1 ∧ u.phase = .fresh) ∨ (u.seq = s.seq ∧ u.phase = .issued)) := by
    intro e
    by_cases hh : s.env.delayHung = true
    · simp [delay_hung s e hh]
    · simp [delay_returns s e (by simpa using hh)]
  cases op with
  | busInit => simp [perform, MicroOp.traceAfter, MicroOp.answered, MicroOp.event]
  | lineCfg l => simp [perform, MicroOp.traceAfter, MicroOp.answered, MicroOp.event]
  | lineWrite l v => simp [perform, MicroOp.traceAfter, MicroOp.answered, MicroOp.event]
  | memRead a => simp [perform, MicroOp.traceAfter, MicroOp.answered, MicroOp.event]
  | busWrite bs =>
    simpa [perform, MicroOp.traceAfter, MicroOp.answered, MicroOp.event, MicroOp.isBus, BusReq.event] using
      bus (.write s.params.devAddr bs) (fun _ t => t) (fun _ _ => ⟨rfl, rfl, rfl, rfl⟩)
  | busRead d =>
    simpa [perform, MicroOp.traceAfter, MicroOp.answered, MicroOp.event, MicroOp.isBus, BusReq.event] using
      bus (.read s.params.devAddr 1) (fun b t => t.keep d b) (fun _ _ => by simp)
  | delayUs n => simpa [perform, MicroOp.traceAfter, MicroOp.answered, MicroOp.event, MicroOp.isBus] using del (.delayUs n)
  | delayMs n => simpa [perform, MicroOp.traceAfter, MicroOp.answered, MicroOp.event, MicroOp.isBus] using del (.delayMs n)

/-- A step waits only where its collaborator is silent. -/
theorem perform_issued (op : MicroOp) (s : State) (h : (perform op s).phase = .issued) :
    s.env.busHung = true ∨ s.env.delayHung = true := by
  by_contra hn
  obtain ⟨hb, hd⟩ : s.env.busHung = false ∧ s.env.delayHung = false := by simpa using hn
  have bus : ∀ (q : BusReq) (f : Byte → State → State), (transact q f s).phase ≠ .issued := by
    intro q f
    cases ha : (s.env.answer s.params.devAddr q).1 with
    | ok b => simp [transact_ok q s f b hb ha]
    | fail => simp [transact_fail q s f hb ha]
  cases op with
  | busWrite bs => exact bus _ _ h
  | busRead d => exact bus _ _ h
  | delayUs n => simp [perform, delay_returns s _ hd] at h
  | delayMs n => simp [perform, delay_returns s _ hd] at h
  | _ => simp [perform] at h

/-! What a transaction leaves alone where its delivery does, and what a delay leaves alone. -/

theorem transact_cmd (q : BusReq) (f : Byte → State → State) (s : State) (hf : ∀ b t, (f b t).cmd = t.cmd) :
    (transact q f s).cmd = s.cmd := by
  unfold transact; split
  · simp
  · split <;> simp [hf]
theorem transact_lcdState (q : BusReq) (f : Byte → State → State) (s : State) (hf : ∀ b t, (f b t).lcdState = t.lcdState) :
    (transact q f s).lcdState = s.lcdState := by
  unfold transact; split
  · simp
  · split <;> simp [hf]
theorem transact_strPtr (q : BusReq) (f : Byte → State → State) (s : State) (hf : ∀ b t, (f b t).strPtr = t.strPtr) :
    (transact q f s).strPtr = s.strPtr := by
  unfold transact; split
  · simp
  · split <;> simp [hf]
theorem transact_params (q : BusReq) (f : Byte → State → State) (s : State) (hf : ∀ b t, (f b t).params = t.params) :
    (transact q f s).params = s.params := by
  unfold transact; split
  · simp
  · split <;> simp [hf]
theorem transact_lines (q : BusReq) (f : Byte → State → State) (s : State) (hf : ∀ b t, (f b t).lines = t.lines) :
    (transact q f s).lines = s.lines := by
  unfold transact; split
  · simp
  · split <;> simp [hf]
theorem transact_scratch (q : BusReq) (f : Byte → State → State) (s : State) (hf : ∀ b t, (f b t).scratch = t.scratch) :
    (transact q f s).scratch = s.scratch := by
  unfold transact; split
  · simp
  · split <;> simp [hf]
theorem transact_held (q : BusReq) (f : Byte → State → State) (s : State) (hf : ∀ b t, (f b t).held = t.held) :
    (transact q f s).held = s.held := by
  unfold transact; split
  · simp
  · split <;> simp [hf]
theorem transact_readBack (q : BusReq) (f : Byte → State → State) (s : State) (hf : ∀ b t, (f b t).readBack = t.readBack) :
    (transact q f s).readBack = s.readBack := by
  unfold transact; split
  · simp
  · split <;> simp [hf]
@[simp] theorem delay_cmd (e : Event) (s : State) : (delay e s).cmd = s.cmd := by
  unfold delay; split <;> simp
@[simp] theorem delay_lcdState (e : Event) (s : State) : (delay e s).lcdState = s.lcdState := by
  unfold delay; split <;> simp
@[simp] theorem delay_strPtr (e : Event) (s : State) : (delay e s).strPtr = s.strPtr := by
  unfold delay; split <;> simp
@[simp] theorem delay_params (e : Event) (s : State) : (delay e s).params = s.params := by
  unfold delay; split <;> simp
@[simp] theorem delay_lines (e : Event) (s : State) : (delay e s).lines = s.lines := by
  unfold delay; split <;> simp
@[simp] theorem delay_scratch (e : Event) (s : State) : (delay e s).scratch = s.scratch := by
  unfold delay; split <;> simp
@[simp] theorem delay_held (e : Event) (s : State) : (delay e s).held = s.held := by
  unfold delay; split <;> simp
@[simp] theorem delay_readBack (e : Event) (s : State) : (delay e s).readBack = s.readBack := by
  unfold delay; split <;> simp
@[simp] theorem delay_env (e : Event) (s : State) : (delay e s).env = s.env := by
  unfold delay; split <;> simp

/-- A transaction changes nothing outside but the bus and the counter of free answers. -/
theorem transact_env (q : BusReq) (f : Byte → State → State) (s : State) (hf : ∀ b t, (f b t).env = t.env) :
    ∃ b n, (transact q f s).env = { s.env with bus := b, draws := n } := by
  by_cases hh : s.env.busHung = true
  · exact ⟨s.env.bus, s.env.draws, by simp [transact_hung q s f hh]⟩
  · have hh : s.env.busHung = false := by simpa using hh
    obtain ⟨b, n, he⟩ := s.env.answer_frame s.params.devAddr q
    refine ⟨b, n, ?_⟩
    cases h : (s.env.answer s.params.devAddr q).1 with
    | ok d => rw [transact_ok q s f d hh h]; simp [hf, he]
    | fail => rw [transact_fail q s f hh h]; simp [he]

/-! The fields no micro-operation writes. -/

@[simp] theorem perform_cmd (op : MicroOp) (s : State) : (perform op s).cmd = s.cmd := by
  cases op <;> simp [perform, transact_cmd]
@[simp] theorem perform_lcdState (op : MicroOp) (s : State) : (perform op s).lcdState = s.lcdState := by
  cases op <;> simp [perform, transact_lcdState]
@[simp] theorem perform_strPtr (op : MicroOp) (s : State) : (perform op s).strPtr = s.strPtr := by
  cases op <;> simp [perform, transact_strPtr]
@[simp] theorem perform_params (op : MicroOp) (s : State) : (perform op s).params = s.params := by
  cases op <;> simp [perform, transact_params]

/-- Outside, a micro-operation moves at most the bus collaborator. -/
theorem perform_env (op : MicroOp) (s : State) : ∃ b n, (perform op s).env = { s.env with bus := b, draws := n } := by
  cases op with
  | busWrite bs => exact transact_env _ _ _ (fun _ _ => rfl)
  | busRead d => exact transact_env _ _ _ (fun _ _ => keep_env _ _ _)
  | _ => exact ⟨s.env.bus, s.env.draws, by simp [perform]⟩

/-- A micro-operation that is no transaction changes nothing outside. -/
theorem perform_env_same (op : MicroOp) (s : State) (h : op.isBus = false) : (perform op s).env = s.env := by
  cases op <;> first | (simp [perform]; done) | simp [MicroOp.isBus] at h

/-- Only `LineCfg` and `Line <-` move a line (10_state.md R28). -/
theorem perform_lines (op : MicroOp) (s : State) : (perform op s).lines =
    match op with
    | .lineCfg l => s.lines.set l .configured
    | .lineWrite l v => s.lines.set l (.ofBool v)
    | _ => s.lines := by
  cases op <;> simp [perform, transact_lines]

/-- Only a `BusRead` into it writes a scratch byte (10_state.md R29). -/
theorem perform_scratch (op : MicroOp) (s : State) (h : ∀ d, op = .busRead d → d = .readBack) :
    (perform op s).scratch = s.scratch := by
  cases op with
  | busRead d =>
    cases h d rfl
    exact transact_scratch _ _ _ (fun _ _ => rfl)
  | _ => simp [perform, transact_scratch]

/-- Only a `MemRead` writes the byte held. -/
theorem perform_held (op : MicroOp) (s : State) (h : ∀ a, op ≠ .memRead a) : (perform op s).held = s.held := by
  cases op with
  | memRead a => exact absurd rfl (h a)
  | busRead d => exact transact_held _ _ _ (fun _ _ => keep_held _ _ _)
  | _ => simp [perform, transact_held]

/-- Only a `BusRead` into it writes the byte read back. -/
theorem perform_readBack (op : MicroOp) (s : State) (h : op ≠ .busRead .readBack) :
    (perform op s).readBack = s.readBack := by
  cases op with
  | busRead d =>
    cases d with
    | readBack => exact absurd rfl h
    | _ => exact transact_readBack _ _ _ (fun _ _ => rfl)
  | _ => simp [perform, transact_readBack]

/-! ### A list of micro-operations -/

/-- Within the list the step is the micro-operation at the position. -/
theorem runAt_op (k : Nat) (ops : List MicroOp) (done : State → State) (s : State) (op : MicroOp)
    (h : ops[k]? = some op) : runAt k ops done s = perform op s := by simp [runAt, h]

/-- After the list the step is the completion. -/
theorem runAt_done (k : Nat) (ops : List MicroOp) (done : State → State) (s : State) (h : ops.length ≤ k) :
    runAt k ops done s = done s := by simp [runAt, List.getElem?_eq_none h]

/-- The two things a list of micro-operations can do. -/
theorem runAt_cases (k : Nat) (ops : List MicroOp) (done : State → State) (s : State) :
    (∃ op, op ∈ ops ∧ ops[k]? = some op ∧ runAt k ops done s = perform op s) ∨
    (ops.length ≤ k ∧ runAt k ops done s = done s) := by
  cases h : ops[k]? with
  | some op => exact .inl ⟨op, List.mem_of_getElem? h, rfl, runAt_op k ops done s op h⟩
  | none => exact .inr ⟨List.getElem?_eq_none_iff.mp h, by simp [runAt, h]⟩

/-- After a failed transaction the step is the response with `BUS_ERROR`. -/
theorem runBus_failed (ops : List MicroOp) (done : State → State) (s : State) (h : s.phase = .failed) :
    runBus ops done s = raise .busError s := by simp [runBus, h]

/-- Otherwise it is the step of the list. -/
theorem runBus_runs (ops : List MicroOp) (done : State → State) (s : State) (h : s.phase ≠ .failed) :
    runBus ops done s = runAt s.seq ops done s := by simp [runBus, runSeq, h]

end Sys2Proof.Machine
end

