-- ==== Sys2Proof/Laws/Codec.lean ====
section
/-! SUPPORT. The lists of micro-operations of the commands: their bytes, their events and their lengths, said once. -/

namespace Sys2Proof.Machine

/-! ### The bytes the set commands write -/

/-- `bin_to_bcd` gives the byte the tables of 95_test_vectors.md B1 give (40_bcd.md R100). -/
theorem binToBcd_eq (n : Byte) (h : n.toNat ≤ 99) : binToBcd n.toNat = some (bcdByte n) := by
  have all : ∀ k ≤ 99, binToBcd k = some (BitVec.ofNat 8 (16 * (k / 10) + k % 10)) := by decide
  exact all _ h

/-- `enc_seconds` leaves the byte as it is: CH is 0 already (41_rtc.md R121). -/
theorem encSeconds_eq (s : Byte) (h : s.toNat ≤ 59) : encSeconds s = some (bcdByte s) := by
  have all : ∀ k ≤ 59, (if k ≤ 59 then (binToBcd k).map (· &&& 0x7F#8) else none) =
    some (BitVec.ofNat 8 (16 * (k / 10) + k % 10)) := by decide
  exact all _ h

/-- A byte that spells a format is that format's code (10_state.md R24). -/
theorem TimeFormat.ofByte_code {f : Byte} {fmt : TimeFormat} (h : TimeFormat.ofByte f = some fmt) : f = fmt.code := by
  unfold TimeFormat.ofByte at h
  split at h
  · cases h; assumption
  · split at h
    · cases h; assumption
    · split at h
      · cases h; assumption
      · cases h

/-- `enc_hours` on a legal pair is the byte of 95_test_vectors.md B4 (41_rtc.md R125). -/
theorem encHours_eq (h : Byte) (fmt : TimeFormat) (hl : hoursLegal h fmt = true) :
    encHours h fmt = some (hoursByte h fmt.code) := by
  have bound : h.toNat ≤ if fmt = .hour24 then 23 else 12 := by revert hl; cases fmt <;> simp [hoursLegal]
  have all : ∀ k, ∀ fmt : TimeFormat, k ≤ (if fmt = .hour24 then 23 else 12) →
      BitVec.ofNat 8 (16 * (k / 10) + k % 10) ||| formatBits fmt =
        BitVec.ofNat 8 (16 * (k / 10) + k % 10) +
          if fmt.code = 0#8 then 0x40#8 else if fmt.code = 1#8 then 0x60#8 else 0#8 := by
    intro k fmt; revert k; cases fmt <;> decide
  have le99 : h.toNat ≤ 99 := by revert bound; split <;> omega
  simp only [encHours, hl, if_true, binToBcd_eq h le99, Option.map_some, hoursByte]
  exact congrArg some (all _ fmt bound)

/-- The micro-operations of `RTC_SET_TIME` on valid operands (41_rtc.md R134). -/
theorem setTimeOps_valid (p : Params) (s m h f : Byte) (hv : validTime s m h f = true) :
    setTimeOps p s m h f =
      some [.busWrite [p.regSeconds, bcdByte s], .busWrite [p.regMinutes, bcdByte m],
            .busWrite [p.regHours, hoursByte h f]] := by
  have hv' := hv
  simp only [validTime, Bool.and_eq_true, decide_eq_true_eq] at hv
  obtain ⟨⟨h1, h2⟩, h3⟩ := hv
  unfold setTimeOps
  rw [if_pos hv']
  cases hf : TimeFormat.ofByte f with
  | none => simp [hf] at h3
  | some fmt =>
    rw [hf] at h3
    rw [TimeFormat.ofByte_code hf]
    simp [encSeconds_eq s h1, binToBcd_eq m (by omega), encHours_eq h fmt h3, regWriteOps]

/-- The micro-operations of `RTC_SET_DATE` on valid operands (41_rtc.md R137). -/
theorem setDateOps_valid (p : Params) (d mo y w : Byte) (hv : validDate d mo y w = true) :
    setDateOps p d mo y w =
      some [.busWrite [p.regDate, bcdByte d], .busWrite [p.regMonth, bcdByte mo], .busWrite [p.regYear, bcdByte y],
            .busWrite [p.regWeekday, bcdByte w]] := by
  have hv' := hv
  simp only [validDate, Bool.and_eq_true, decide_eq_true_eq] at hv
  unfold setDateOps
  rw [if_pos hv', binToBcd_eq d (by omega), binToBcd_eq mo (by omega), binToBcd_eq y (by omega),
    binToBcd_eq w (by omega)]
  rfl

/-! ### The events of the LCD procedures -/

/-- A micro-operation of the LCD part that is no `MemRead`: it moves a line or waits, and cannot fail. -/
def MicroOp.isLine : MicroOp → Bool
  | .busInit => false
  | .busWrite _ => false
  | .busRead _ => false
  | .lineCfg _ => true
  | .lineWrite _ _ => true
  | .delayUs _ => true
  | .delayMs _ => true
  | .memRead _ => false

/-- A line micro-operation when delays return: one event, the line it moves, the next position. -/
theorem perform_line (op : MicroOp) (h : op.isLine = true) (s : State) (hw : s.phase = .fresh)
    (hd : s.env.delayHung = false) (dev : DevAddr) : perform op s =
      { s with seq := s.seq + 1, lines := (op.event dev).moveLines s.lines, trace := s.trace ++ [op.event dev] } := by
  cases op <;> simp [MicroOp.isLine] at h <;> cases s <;>
    simp_all [perform, State.setLine, State.record, State.advance, MicroOp.event, Event.moveLines, delay, State.issue]

/-- The bits of the two nibbles of a byte (42_lcd.md R164). -/
theorem nibble_bits (b : Byte) :
    (((hiNibble b).setWidth 8).getLsbD 0 = b.getLsbD 4 ∧ ((hiNibble b).setWidth 8).getLsbD 1 = b.getLsbD 5 ∧
      ((hiNibble b).setWidth 8).getLsbD 2 = b.getLsbD 6 ∧ ((hiNibble b).setWidth 8).getLsbD 3 = b.getLsbD 7) ∧
    ((loNibble b).setWidth 8).getLsbD 0 = b.getLsbD 0 ∧ ((loNibble b).setWidth 8).getLsbD 1 = b.getLsbD 1 ∧
      ((loNibble b).setWidth 8).getLsbD 2 = b.getLsbD 2 ∧ ((loNibble b).setWidth 8).getLsbD 3 = b.getLsbD 3 := by
  simp [hiNibble, loNibble]

/-- The events of `Nibble(v)` (42_lcd.md R163). -/
theorem nibbleOps_events (p : Params) (dev : DevAddr) (v : Byte) : (nibbleOps p v).map (MicroOp.event dev) =
    nibbleEvents p (v.getLsbD 0) (v.getLsbD 1) (v.getLsbD 2) (v.getLsbD 3) := rfl

/-- The events of `SendByte(rs, b)` (42_lcd.md R164). -/
theorem sendByteOps_events (p : Params) (dev : DevAddr) (rs : Bool) (b : Byte) :
    (sendByteOps p rs b).map (MicroOp.event dev) = byteEvents p rs b := by
  obtain ⟨⟨h0, h1, h2, h3⟩, h4, h5, h6, h7⟩ := nibble_bits b
  simp only [sendByteOps, List.map_append, nibbleOps_events, h0, h1, h2, h3, h4, h5, h6, h7]
  rfl

/-- The events of `LCD_INIT` (42_lcd.md R165, R166). -/
theorem lcdInitOps_events (p : Params) (dev : DevAddr) :
    (lcdInitOps p).map (MicroOp.event dev) = lcdInitEvents p := by
  simp only [lcdInitOps, lineSetupOps, handshakeOps, setupCommandOps, List.map_append, nibbleOps_events,
    sendByteOps_events]
  simp [lcdInitEvents, lineSetupEvents, handshakeEvents, setupEvents, allLines, MicroOp.event]

/-- `Nibble` only moves lines and waits. -/
theorem nibbleOps_isLine (p : Params) (v : Byte) : ∀ op ∈ nibbleOps p v, op.isLine = true := by
  simp [nibbleOps, MicroOp.isLine]

/-- `SendByte` only moves lines and waits. -/
theorem sendByteOps_isLine (p : Params) (rs : Bool) (b : Byte) : ∀ op ∈ sendByteOps p rs b, op.isLine = true := by
  simp only [sendByteOps, List.forall_mem_append]
  exact ⟨⟨by simp [MicroOp.isLine], nibbleOps_isLine p _⟩, nibbleOps_isLine p _⟩

/-- `LCD_INIT` only moves lines and waits. -/
theorem lcdInitOps_isLine (p : Params) : ∀ op ∈ lcdInitOps p, op.isLine = true := by
  have nib := nibbleOps_isLine p
  have byte := sendByteOps_isLine p
  have ms : ∀ n, ∀ op ∈ [MicroOp.delayMs n], op.isLine = true := by simp [MicroOp.isLine]
  have us : ∀ n, ∀ op ∈ [MicroOp.delayUs n], op.isLine = true := by simp [MicroOp.isLine]
  have setup : ∀ op ∈ lineSetupOps, op.isLine = true := by decide
  intro op h
  simp only [lcdInitOps, handshakeOps, setupCommandOps, List.mem_append] at h
  casesm* _ ∨ _ <;> first | exact nib _ _ ‹_› | exact byte _ _ _ ‹_› | exact ms _ _ ‹_› | exact us _ _ ‹_› | exact setup _ ‹_›

/-- A byte is 18 micro-operations (42_lcd.md R164). -/
theorem sendByteOps_length (p : Params) (rs : Bool) (b : Byte) : (sendByteOps p rs b).length = 18 := rfl

/-- `LCD_INIT` is 122 micro-operations (42_lcd.md R165). -/
theorem lcdInitOps_length (p : Params) : (lcdInitOps p).length = 122 := rfl

end Sys2Proof.Machine
end

