-- ==== Sys2Proof/Laws/Decode.lean ====
section
/-! SUPPORT. The fields of a packed word, and of an address split into its bytes. -/

namespace Sys2Proof

variable (b4 b3 b2 b1 b0 : Byte)

/-- Bit `i` of the byte a packed word holds at byte position `k`. -/
theorem packWord_getLsbD (i : Nat) : (packWord b4 b3 b2 b1 b0).getLsbD i =
    if i < 8 then b0.getLsbD i else if i < 16 then b1.getLsbD (i - 8) else if i < 24 then b2.getLsbD (i - 16)
    else if i < 32 then b3.getLsbD (i - 24) else b4.getLsbD (i - 32) := by
  have e : ∀ n : Nat, i - n - 8 = i - (n + 8) := fun n => by omega
  simp only [packWord, BitVec.getLsbD_cast, BitVec.getLsbD_append, e]
  repeat' split
  all_goals first | rfl | omega

@[simp] theorem opField_pack : opField (packWord b4 b3 b2 b1 b0) = b4 := by
  ext i hi
  simp only [opField, BitVec.getElem_extractLsb', packWord_getLsbD]
  rw [if_neg (by omega), if_neg (by omega), if_neg (by omega), if_neg (by omega)]
  simp [hi]

@[simp] theorem a3Field_pack : a3Field (packWord b4 b3 b2 b1 b0) = b3 := by
  ext i hi
  simp only [a3Field, BitVec.getElem_extractLsb', packWord_getLsbD]
  rw [if_neg (by omega), if_neg (by omega), if_neg (by omega), if_pos (by omega)]
  simp [hi]

@[simp] theorem a2Field_pack : a2Field (packWord b4 b3 b2 b1 b0) = b2 := by
  ext i hi
  simp only [a2Field, BitVec.getElem_extractLsb', packWord_getLsbD]
  rw [if_neg (by omega), if_neg (by omega), if_pos (by omega)]
  simp [hi]

@[simp] theorem a1Field_pack : a1Field (packWord b4 b3 b2 b1 b0) = b1 := by
  ext i hi
  simp only [a1Field, BitVec.getElem_extractLsb', packWord_getLsbD]
  rw [if_neg (by omega), if_pos (by omega)]
  simp [hi]

@[simp] theorem a0Field_pack : a0Field (packWord b4 b3 b2 b1 b0) = b0 := by
  ext i hi
  simp only [a0Field, BitVec.getElem_extractLsb', packWord_getLsbD]
  rw [if_pos (by omega)]
  simp [hi]

/-- An address is put together from its two bytes again (R76, R83). -/
@[simp] theorem addrOf_split (a : StrAddr) : addrOf (addrHigh a) (addrLow a) = a := by
  ext i hi
  simp only [addrOf, addrHigh, addrLow, BitVec.getElem_cast, BitVec.getElem_append]
  split
  · simp [hi]
  · simp only [BitVec.getElem_extractLsb']
    rw [show 8 + (i - 8) = i by omega]
    simp [hi]

end Sys2Proof
end

