-- ==== Sys2Proof/Laws/Exec.lean ====
section
/-! SUPPORT. What one step of any command can be, and how runs of steps unfold. -/

namespace Sys2Proof.Machine

/-- What only moves a line or waits is no transaction. -/
theorem MicroOp.not_isBus_of_isLine {op : MicroOp} (h : op.isLine = true) : op.isBus = false := by
  cases op <;> first | rfl | cases h

/-- A set command has micro-operations only where its operands are in range (41_rtc.md R134, R137). -/
theorem setTimeOps_legal {p : Params} {s m h f : Byte} {l : List MicroOp} (e : setTimeOps p s m h f = some l) :
    validTime s m h f = true := by
  unfold setTimeOps at e; split at e
  · assumption
  · cases e
theorem setDateOps_legal {p : Params} {d mo y w : Byte} {l : List MicroOp} (e : setDateOps p d mo y w = some l) :
    validDate d mo y w = true := by
  unfold setDateOps at e; split at e
  · assumption
  · cases e

/-- What one step of a command can be: a completion with an error (`BUS_ERROR` only after a transaction that failed), a
successful completion, a micro-operation (a transaction only in an RTC command with operands in range, none after one
that failed), or one of the three steps that begin with a write of the block's own: those of `LCD_INIT` and the
`MemRead` of `LCD_STR`. To prove `P` of every next state it is enough to prove it of these. -/
theorem exec_cases (i : Instr) (s t : State) (h : exec i s = .next t) (P : State → Prop)
    (aborted : ∀ st, st ≠ .ok → (st = .busError → i.isRtc = true ∧ s.phase = .failed) → P (raise st s))
    (responded : ∀ r, P (respondOk r s))
    (performed : ∀ op, (op.isBus = true → i.isRtc = true ∧ i.operandsLegal = true ∧ s.phase ≠ .failed) →
      P (perform op s))
    (initPerformed : i = .lcdInit → ∀ op ∈ lcdInitOps s.params, P (perform op (s.setLcd .initializing)))
    (initDone : i = .lcdInit → P (lcdInitDone (s.setLcd .initializing)))
    (memRead : ∀ a, i = .lcdStr a →
      P (perform (.memRead (nextStrPtr a s)) { s with strPtr := nextStrPtr a s })) : P t := by
  have bus : i.isRtc = true → i.operandsLegal = true → ∀ (ops : List MicroOp) (done : State → State),
      P (done s) → P (runBus ops done s) := by
    intro hr hl ops done hd
    by_cases hf : s.phase = .failed
    · rw [runBus_failed ops done s hf]
      exact aborted _ (by simp) (fun _ => ⟨hr, hf⟩)
    · rw [runBus_runs ops done s hf]
      rcases runAt_cases s.seq ops done s with ⟨op, _, _, e⟩ | ⟨_, e⟩ <;> rw [e]
      · exact performed _ (fun _ => ⟨hr, hl, hf⟩)
      · exact hd
  have lines : ∀ (k : Nat) (ops : List MicroOp) (done : State → State), (∀ op ∈ ops, op.isBus = false) → P (done s) →
      P (runAt k ops done s) := by
    intro k ops done ho hd
    rcases runAt_cases k ops done s with ⟨op, hm, _, e⟩ | ⟨_, e⟩ <;> rw [e]
    · exact performed _ (fun hb => absurd hb (by simp [ho op hm]))
    · exact hd
  have byte : ∀ rs b, ∀ op ∈ sendByteOps s.params rs b, op.isBus = false := fun rs b op hm =>
    MicroOp.not_isBus_of_isLine (sendByteOps_isLine s.params rs b op hm)
  have send : ∀ ops : List MicroOp, (∀ op ∈ ops, op.isBus = false) → P (lcdSend ops s) := by
    intro ops ho
    unfold lcdSend ifReady
    split
    · exact lines _ _ _ ho (responded _)
    · exact aborted _ (by simp) (by simp)
  have settled : ∀ b, ∀ op ∈ sendByteOps s.params false b ++ [.delayMs s.params.tSettleMs], op.isBus = false := by
    intro b op hm
    rcases List.mem_append.mp hm with hm | hm
    · exact byte _ _ _ hm
    · rw [List.mem_singleton.mp hm]; rfl
  have set : i.isRtc = true → ∀ ops : Option (List MicroOp), (∀ l, ops = some l → i.operandsLegal = true) →
      P (setStep ops s) := by
    intro hr ops hl
    unfold setStep
    split
    · exact bus hr (hl _ rfl) _ _ (responded _)
    · exact aborted _ (by simp) (by simp)
  cases i <;> cases h
  case bin2bcd n =>
    unfold bin2bcdStep
    split
    · exact responded _
    · exact aborted _ (by simp) (by simp)
  case bcd2bin => exact responded _
  case rtcInit => exact bus rfl rfl _ _ (responded _)
  case rtcSetTime => exact set rfl _ (fun _ e => setTimeOps_legal e)
  case rtcGetTime => exact bus rfl rfl _ _ (responded _)
  case rtcSetDate => exact set rfl _ (fun _ e => setDateOps_legal e)
  case rtcGetDate => exact bus rfl rfl _ _ (responded _)
  case lcdInit =>
    change P (runAt s.seq (lcdInitOps s.params) lcdInitDone (s.setLcd .initializing))
    rcases runAt_cases s.seq (lcdInitOps s.params) lcdInitDone (s.setLcd .initializing) with ⟨op, hm, _, e⟩ | ⟨_, e⟩
    · exact e ▸ initPerformed rfl op hm
    · exact e ▸ initDone rfl
  case lcdCmd => exact send _ (byte _ _)
  case lcdChar => exact send _ (byte _ _)
  case lcdStr a =>
    unfold ifReady
    split
    · unfold lcdStrStep
      split
      · exact memRead a rfl
      · split
        · exact responded _
        · exact lines _ _ _ (byte _ _) (responded _)
    · exact aborted _ (by simp) (by simp)
  case lcdHome => exact send _ (settled _)
  case lcdClear => exact send _ (settled _)
  case lcdCursor row column =>
    refine send _ ?_
    unfold cursorOps
    split
    · exact byte _ _
    · simp

/-- No steps. -/
theorem steps_zero (s : State) : steps 0 s = .next s := rfl

/-- One step, then the others. -/
theorem steps_succ {s u : State} (n : Nat) (h : step s = .next u) : steps (n + 1) s = steps n u := by
  have hc : Sys2Proof.core.step s = .next u := h
  simp only [steps, Host.Core.run, hc]
  rfl

/-- One step of a command, then the others. -/
theorem runCommand_succ (i : Instr) (n : Nat) {s u : State} (hb : s.busy = true) (h : exec i s = .next u) :
    runCommand i (n + 1) s = runCommand i n u := by simp [runCommand, hb, h]

/-- A command that has responded stays where it is. -/
theorem runCommand_idle (i : Instr) (n : Nat) {s : State} (hb : s.busy = false) : runCommand i n s = .next s := by
  cases n <;> simp [runCommand, hb]

end Sys2Proof.Machine
end

