-- ==== Sys2Proof/Laws/PerInstr.lean ====
section
/-! SUPPORT. A statement about every command as syntax, constructor by constructor. -/

namespace Sys2Proof.Laws.EncodeFields

/-- The word of a command has the command's opcode in bits 39:32 and 0 in every bit the command does not use
(30_encoding.md R70, R81, R83). -/
def Statement (i : Instr) : Prop := opField (encode i) = i.opcode ∧ encode i &&& ~~~i.usedBits = 0#40

/-- A word with its bytes 1 to 3 zero has no bit between bit 8 and bit 31. -/
theorem unused_zero (b4 b3 b2 b1 b0 : Byte) (m : Word40)
    (h : ∀ k < 40, m.getLsbD k = false → (packWord b4 b3 b2 b1 b0).getLsbD k = false) :
    packWord b4 b3 b2 b1 b0 &&& ~~~m = 0#40 := by
  apply BitVec.eq_of_getLsbD_eq
  intro k hk
  cases hm : m.getLsbD k with
  | true => simp [hm]
  | false => simp [h k hk hm]

theorem bin2bcd (n : Byte) : Statement (.bin2bcd n) :=
  ⟨by simp [encode, Instr.opcode], unused_zero _ _ _ _ _ _ (by
    intro k hk; simp only [Instr.usedBits, packWord_getLsbD]; interval_cases k <;> simp)⟩
theorem bcd2bin (b : Byte) : Statement (.bcd2bin b) :=
  ⟨by simp [encode, Instr.opcode], unused_zero _ _ _ _ _ _ (by
    intro k hk; simp only [Instr.usedBits, packWord_getLsbD]; interval_cases k <;> simp)⟩
theorem rtcInit : Statement .rtcInit :=
  ⟨by simp [encode, Instr.opcode], unused_zero _ _ _ _ _ _ (by
    intro k hk; simp only [Instr.usedBits, packWord_getLsbD]; interval_cases k <;> simp)⟩
theorem rtcSetTime (s m h f : Byte) : Statement (.rtcSetTime s m h f) :=
  ⟨by simp [encode, Instr.opcode], unused_zero _ _ _ _ _ _ (by
    intro k hk; simp only [Instr.usedBits, packWord_getLsbD]; interval_cases k <;> simp)⟩
theorem rtcGetTime : Statement .rtcGetTime :=
  ⟨by simp [encode, Instr.opcode], unused_zero _ _ _ _ _ _ (by
    intro k hk; simp only [Instr.usedBits, packWord_getLsbD]; interval_cases k <;> simp)⟩
theorem rtcSetDate (d m y w : Byte) : Statement (.rtcSetDate d m y w) :=
  ⟨by simp [encode, Instr.opcode], unused_zero _ _ _ _ _ _ (by
    intro k hk; simp only [Instr.usedBits, packWord_getLsbD]; interval_cases k <;> simp)⟩
theorem rtcGetDate : Statement .rtcGetDate :=
  ⟨by simp [encode, Instr.opcode], unused_zero _ _ _ _ _ _ (by
    intro k hk; simp only [Instr.usedBits, packWord_getLsbD]; interval_cases k <;> simp)⟩
theorem lcdInit : Statement .lcdInit :=
  ⟨by simp [encode, Instr.opcode], unused_zero _ _ _ _ _ _ (by
    intro k hk; simp only [Instr.usedBits, packWord_getLsbD]; interval_cases k <;> simp)⟩
theorem lcdCmd (b : Byte) : Statement (.lcdCmd b) :=
  ⟨by simp [encode, Instr.opcode], unused_zero _ _ _ _ _ _ (by
    intro k hk; simp only [Instr.usedBits, packWord_getLsbD]; interval_cases k <;> simp)⟩
theorem lcdChar (b : Byte) : Statement (.lcdChar b) :=
  ⟨by simp [encode, Instr.opcode], unused_zero _ _ _ _ _ _ (by
    intro k hk; simp only [Instr.usedBits, packWord_getLsbD]; interval_cases k <;> simp)⟩
theorem lcdStr (a : StrAddr) : Statement (.lcdStr a) :=
  ⟨by simp [encode, Instr.opcode], unused_zero _ _ _ _ _ _ (by
    intro k hk; simp only [Instr.usedBits, packWord_getLsbD]; interval_cases k <;> simp)⟩
theorem lcdHome : Statement .lcdHome :=
  ⟨by simp [encode, Instr.opcode], unused_zero _ _ _ _ _ _ (by
    intro k hk; simp only [Instr.usedBits, packWord_getLsbD]; interval_cases k <;> simp)⟩
theorem lcdClear : Statement .lcdClear :=
  ⟨by simp [encode, Instr.opcode], unused_zero _ _ _ _ _ _ (by
    intro k hk; simp only [Instr.usedBits, packWord_getLsbD]; interval_cases k <;> simp)⟩
theorem lcdCursor (r c : Byte) : Statement (.lcdCursor r c) :=
  ⟨by simp [encode, Instr.opcode], unused_zero _ _ _ _ _ _ (by
    intro k hk; simp only [Instr.usedBits, packWord_getLsbD]; interval_cases k <;> simp)⟩

end Sys2Proof.Laws.EncodeFields
end

