-- ==== Sys2Proof/Tests/Slice0.lean ====
section
/-! SUPPORT. The model's own tests, and for every obligation with hypotheses a state and operands that meet them.
Expected values are the spec's (the vectors of 95_test_vectors.md, or worked out by hand from the rule named). -/

namespace Sys2Proof.Tests

open Sys2Proof Sys2Proof.Machine

/-- The next state of an outcome. -/
def nextOf : Host.Outcome State Fault Refusal → Option State
  | .next s => some s
  | .fault _ => none
  | .refused _ => none

/-- Seven driven lines, EN and RW low, as in `Ready`. -/
def lowLines : Lines :=
  { rs := .low, rw := .low, en := .low, d4 := .low, d5 := .low, d6 := .low, d7 := .low }

/-- The block after reset, the command just accepted. -/
def started (i : Instr) : State := accept (encode i) State.reset

/-- The same on a block whose LCD part is in `Ready`. -/
def startedReady (i : Instr) : State := { started i with lcdState := .ready, lines := lowLines }

/-- A state whose bus answers what the list says. -/
def withBus (bus : BusEnv) (s : State) : State := { s with env := { s.env with bus := bus } }

/-- A state at a position of its command. -/
def atSeq (k : Nat) (s : State) : State := { s with seq := k }

/-- A state with acts of the outside to come. -/
def withActs (acts : List Act) (s : State) : State := { s with env := { s.env with acts := acts } }

/-- The events one step of a command records. -/
def newEvents (i : Instr) (s : State) : Option (List Event) :=
  (nextOf (exec i s)).map fun t => t.trace.drop s.trace.length

/-- The response one step of a command gives. -/
def newRsp (i : Instr) (s : State) : Option Rsp := (nextOf (exec i s)).map fun t => t.rsp

/-- Completed `OK` with result bytes. -/
def okRsp (r3 r2 r1 r0 : Byte) : Rsp :=
  { valid := true, status := .ok, results := some { r3 := r3, r2 := r2, r1 := r1, r0 := r0 } }

/-- Completed with an error. -/
def errRsp (st : Status) : Rsp := { valid := true, status := st, results := none }

/-! ### Decoding: words written out from 30_encoding.md R79 and R73 to R77 -/

theorem test_decode_bin2bcd : decode 0x000000003B#40 = .instr (.bin2bcd 59#8) := by decide
theorem test_decode_bcd2bin : decode 0x01FFFFFF59#40 = .instr (.bcd2bin 0x59#8) := by decide
theorem test_decode_rtcInit : decode 0x10ABCDEF01#40 = .instr .rtcInit := by decide
theorem test_decode_rtcSetTime : decode 0x11010B3B0F#40 = .instr (.rtcSetTime 15#8 59#8 11#8 1#8) := by decide
theorem test_decode_rtcGetTime : decode 0x12FF00FF00#40 = .instr .rtcGetTime := by decide
theorem test_decode_rtcSetDate : decode 0x1307630C1F#40 = .instr (.rtcSetDate 31#8 12#8 99#8 7#8) := by decide
theorem test_decode_rtcGetDate : decode 0x1400000000#40 = .instr .rtcGetDate := by decide
theorem test_decode_lcdInit : decode 0x2000000001#40 = .instr .lcdInit := by decide
theorem test_decode_lcdCmd : decode 0x210000000C#40 = .instr (.lcdCmd 0x0C#8) := by decide
theorem test_decode_lcdChar : decode 0x22FFFFFF41#40 = .instr (.lcdChar 0x41#8) := by decide
theorem test_decode_lcdStr : decode 0x23FFFF1234#40 = .instr (.lcdStr 0x1234#16) := by decide
theorem test_decode_lcdHome : decode 0x2400000000#40 = .instr .lcdHome := by decide
theorem test_decode_lcdClear : decode 0x2512345678#40 = .instr .lcdClear := by decide
theorem test_decode_lcdCursor : decode 0x2600000210#40 = .instr (.lcdCursor 2#8 16#8) := by decide

/-- 95_test_vectors.md B10: the reserved words it lists. -/
theorem test_decode_reserved :
    [0x0200000000#40, 0x0F00000000#40, 0x1500000000#40, 0x1F00000000#40, 0x2700000000#40, 0x3000000000#40,
     0xFF00000000#40, 0xFFFFFFFFFF#40].all (fun w => decode w == .reserved (opField w)) = true := by decide

/-- The words of 95_test_vectors.md A2, A4, A5, from the encoder. -/
theorem test_encode_words :
    encode (.rtcSetTime 9#8 5#8 7#8 0#8) = 0x1100070509#40 ∧ encode (.rtcSetTime 59#8 0#8 23#8 2#8) = 0x110217003B#40 ∧
    encode (.lcdCursor 3#8 5#8) = 0x2600000305#40 ∧ encode (.lcdStr 0x0200#16) = 0x2300000200#40 := by decide

/-- The host's two entry points on a table word. -/
theorem test_decodeTableWord : decodeTableWord 40 0x2600000210 = some (.lcdCursor 2#8 16#8) ∧
    decodeTableWord 40 0x1500000000 = none := by decide

/-! ### Well-formedness: one ill-formed line for each check -/

theorem test_wf_bin2bcd : (SourceLine.bin2bcd 256).wellFormed = false := by decide
theorem test_wf_bcd2bin : (SourceLine.bcd2bin 256).wellFormed = false := by decide
theorem test_wf_rtcSetTime_hours : (SourceLine.rtcSetTime 256 0 0 .am).wellFormed = false := by decide
theorem test_wf_rtcSetTime_minutes : (SourceLine.rtcSetTime 0 256 0 .am).wellFormed = false := by decide
theorem test_wf_rtcSetTime_seconds : (SourceLine.rtcSetTime 0 0 256 .am).wellFormed = false := by decide
theorem test_wf_rtcSetDate_day : (SourceLine.rtcSetDate 256 1 0 1).wellFormed = false := by decide
theorem test_wf_rtcSetDate_month : (SourceLine.rtcSetDate 1 256 0 1).wellFormed = false := by decide
theorem test_wf_rtcSetDate_year : (SourceLine.rtcSetDate 1 1 256 1).wellFormed = false := by decide
theorem test_wf_rtcSetDate_weekday : (SourceLine.rtcSetDate 1 1 0 256).wellFormed = false := by decide
theorem test_wf_lcdCmd : (SourceLine.lcdCmd 256).wellFormed = false := by decide
theorem test_wf_lcdChar : (SourceLine.lcdChar 256).wellFormed = false := by decide
theorem test_wf_lcdStr : (SourceLine.lcdStr 65536).wellFormed = false := by decide
theorem test_wf_lcdCursor_row : (SourceLine.lcdCursor 256 1).wellFormed = false := by decide
theorem test_wf_lcdCursor_column : (SourceLine.lcdCursor 1 256).wellFormed = false := by decide
theorem test_wf_string_addr : (SourceLine.string 65536 []).wellFormed = false := by decide
theorem test_wf_string_text : (SourceLine.string 0 [72, 256]).wellFormed = false := by decide
theorem test_wf_edges : (SourceLine.lcdCursor 255 255).wellFormed = true ∧ (SourceLine.lcdStr 65535).wellFormed = true := by
  decide

/-- A line of text is read, comment and character operand included (30_encoding.md R83). -/
theorem test_readLine : (readLine "LCD_CHAR 'A' ; first".toList).bind SourceLine.assemble = some 0x2200000041#40 ∧
    (readLine "RTC_SET_TIME 11, 59, 15, PM".toList).bind SourceLine.assemble = some 0x11010B3B0F#40 := by decide

/-- The model's choice where 30_encoding.md R83 is silent (assumption log 21): a semicolon in quotes begins no comment. -/
theorem test_readLine_semicolon : readLine "LCD_CHAR ';' ; x".toList = some (.lcdChar 59) ∧
    readLine ".string 0, \"a;b\" ; x".toList = some (.string 0 [97, 59, 98]) := by decide

/-! ### One step of each command -/

/-- 95_test_vectors.md B3. -/
theorem test_bin2bcd_59 : newRsp (.bin2bcd 59#8) (started (.bin2bcd 59#8)) = some (okRsp 0#8 0#8 0#8 0x59#8) := by decide
theorem test_bin2bcd_100 : newRsp (.bin2bcd 100#8) (started (.bin2bcd 100#8)) = some (errRsp .invalidField) := by decide
theorem test_bcd2bin_59 : newRsp (.bcd2bin 0x59#8) (started (.bcd2bin 0x59#8)) = some (okRsp 0#8 0#8 0#8 59#8) := by decide
/-- 40_bcd.md R101: 165 is the greatest value. -/
theorem test_bcd2bin_ff : newRsp (.bcd2bin 0xFF#8) (started (.bcd2bin 0xFF#8)) = some (okRsp 0#8 0#8 0#8 165#8) := by decide

theorem test_rtcInit_first : newEvents .rtcInit (started .rtcInit) = some [.busInit] := by decide
/-- 41_rtc.md R133: CH set is reported as 1, with `OK`. -/
theorem test_rtcInit_halted :
    newRsp .rtcInit { atSeq 4 (started .rtcInit) with readBack := 0x80#8 } = some (okRsp 0#8 0#8 0#8 1#8) := by decide

/-- 95_test_vectors.md A2: the hours byte of 11 PM is 0x71. -/
theorem test_rtcSetTime_hours :
    newEvents (.rtcSetTime 15#8 59#8 11#8 1#8)
      (atSeq 2 (withBus (.script [.ok 0#8]) (started (.rtcSetTime 15#8 59#8 11#8 1#8)))) =
    some [.busWrite 0x68#7 [0x02#8, 0x71#8]] := by decide
/-- 95_test_vectors.md B11: format byte 3. -/
theorem test_rtcSetTime_format3 : newRsp (.rtcSetTime 15#8 59#8 11#8 3#8)
    (withBus .nack (started (.rtcSetTime 15#8 59#8 11#8 3#8))) = some (errRsp .invalidField) := by decide

/-- 41_rtc.md R136: CH in the seconds byte is left out, and 0x71 is 11 PM (95_test_vectors.md A2). -/
theorem test_rtcGetTime_result :
    newRsp .rtcGetTime { atSeq 6 (started .rtcGetTime) with scratch := { b0 := 0x95#8, b1 := 0x59#8, b2 := 0x71#8, b3 := 0#8 } } =
    some (okRsp 1#8 11#8 59#8 15#8) := by decide
/-- 43_sequencer.md R207: the transaction that fails and the response are two steps. -/
theorem test_rtcGetTime_fail : newEvents .rtcGetTime (withBus .nack (started .rtcGetTime)) =
    some [.busWrite 0x68#7 [0x00#8]] := by decide
theorem test_rtcGetTime_failed : newEvents .rtcGetTime { started .rtcGetTime with phase := .failed } =
    some [.response .busError none] := by decide

/-- 41_rtc.md R137: the date is written first. -/
theorem test_rtcSetDate_first : newEvents (.rtcSetDate 31#8 12#8 99#8 7#8)
    (withBus (.script [.ok 0#8]) (started (.rtcSetDate 31#8 12#8 99#8 7#8))) =
    some [.busWrite 0x68#7 [0x04#8, 0x31#8]] := by decide
theorem test_rtcSetDate_year100 : newRsp (.rtcSetDate 1#8 1#8 100#8 1#8) (started (.rtcSetDate 1#8 1#8 100#8 1#8)) =
    some (errRsp .invalidField) := by decide

theorem test_rtcGetDate_result :
    newRsp .rtcGetDate { atSeq 8 (started .rtcGetDate) with scratch := { b0 := 0x31#8, b1 := 0x12#8, b2 := 0x99#8, b3 := 0x07#8 } } =
    some (okRsp 7#8 99#8 12#8 31#8) := by decide
/-- 41_rtc.md R139: the fourth register read is the weekday. -/
theorem test_rtcGetDate_weekday :
    newEvents .rtcGetDate (atSeq 6 (withBus (.script [.ok 0#8]) (started .rtcGetDate))) =
    some [.busWrite 0x68#7 [0x03#8]] := by decide

theorem test_lcdInit_first : (nextOf (exec .lcdInit (started .lcdInit))).map (fun t => (t.lcdState, t.lines.rs)) =
    some (.initializing, .configured) := by decide
theorem test_lcdInit_last : (nextOf (exec .lcdInit (atSeq 122 (started .lcdInit)))).map (fun t => (t.lcdState, t.rsp)) =
    some (.ready, okRsp 0#8 0#8 0#8 0#8) := by decide

theorem test_lcdCmd_rs : newEvents (.lcdCmd 0x0C#8) (startedReady (.lcdCmd 0x0C#8)) = some [.lineWrite .rs false] := by decide
/-- 42_lcd.md R164: the low nibble of 0x0C is sent second, D6 from bit 2. -/
theorem test_lcdCmd_low : newEvents (.lcdCmd 0x0C#8) (atSeq 12 (startedReady (.lcdCmd 0x0C#8))) =
    some [.lineWrite .d6 true] := by decide
theorem test_lcdChar_rs : newEvents (.lcdChar 0x41#8) (startedReady (.lcdChar 0x41#8)) = some [.lineWrite .rs true] := by decide
theorem test_lcdChar_not_ready : newEvents (.lcdChar 0x41#8) (started (.lcdChar 0x41#8)) =
    some [.response .notReady none] := by decide

/-- 20_memory.md R51: the address after 0xFFFF is 0. -/
theorem test_lcdStr_wrap :
    newEvents (.lcdStr 0x1234#16) { atSeq 19 (startedReady (.lcdStr 0x1234#16)) with strPtr := 0xFFFF#16 } =
    some [.memRead 0x0000#16] := by decide
/-- 95_test_vectors.md A5: the empty string. -/
theorem test_lcdStr_empty : newRsp (.lcdStr 0x0200#16) (atSeq 1 (startedReady (.lcdStr 0x0200#16))) =
    some (okRsp 0#8 0#8 0#8 0#8) := by decide

theorem test_lcdHome_settle : newEvents .lcdHome (atSeq 18 (startedReady .lcdHome)) = some [.delayMs 2] := by decide
theorem test_lcdHome_bit : newEvents .lcdHome (atSeq 11 (startedReady .lcdHome)) = some [.lineWrite .d5 true] := by decide
theorem test_lcdClear_settle : newEvents .lcdClear (atSeq 18 (startedReady .lcdClear)) = some [.delayMs 2] := by decide
theorem test_lcdClear_bit : newEvents .lcdClear (atSeq 10 (startedReady .lcdClear)) = some [.lineWrite .d4 true] := by decide

/-- 95_test_vectors.md A4: 0xCF, high nibble C. -/
theorem test_lcdCursor_d4 : newEvents (.lcdCursor 2#8 16#8) (atSeq 2 (startedReady (.lcdCursor 2#8 16#8))) =
    some [.lineWrite .d4 false] := by decide
theorem test_lcdCursor_row3 : newEvents (.lcdCursor 3#8 5#8) (startedReady (.lcdCursor 3#8 5#8)) =
    some [.response .ok (some { r3 := 0#8, r2 := 0#8, r1 := 0#8, r0 := 0#8 })] := by decide

/-- A reserved word responds with status 3 (30_encoding.md R80). -/
theorem test_reserved : (nextOf (commandStep (accept 0x1500000000#40 State.reset))).map (fun t => t.rsp) =
    some (errRsp .unimplemented) := by decide

/-- The step after `withFetchWord` is the command's first micro-operation. -/
theorem test_withFetchWord : (nextOf (step (State.reset.withFetchWord 40 0x1000000000))).map (fun t => t.trace) =
    some [.accept 0x1000000000#40, .busInit] := by decide

/-- The first step after reset runs the command of every row of the table, free bus answers or not. -/
theorem test_withFetchWord_rows :
    (opRows.all fun r => (nextOf (step (State.reset.withFetchWord 40 r.matchWord.toNat))).isSome) = true := by decide

/-! ### Lawful memory operations -/

/-- Writing what an unlisted byte reads as removes the entry. -/
theorem test_memory_canonical : Memory.write (Memory.write [] 5#16 0x41#8) 5#16 0xFF#8 = [] := by decide

/-! ### States that meet the hypotheses of the obligations -/

/-- A quiet state in which two words stand at the port. -/
def twoWords (v w : Word40) (bus : BusEnv) : State :=
  { State.reset with env := { Env.initial with port := [v, w], bus := bus } }

/-- A fresh `SimRTC` that holds a stopped clock. -/
def haltedChip : SimRtc := { reg := [(0, 0x80#8)], ptr := 0#8 }

theorem witness_DecodeInvertsEncode : decode 0x23FFFF1234#40 = .instr (.lcdStr 0x1234#16) ∧
    decode 0x0200000000#40 = .reserved 0x02#8 := by decide

theorem witness_DecodeFollowsOpcodeTable : (⟨"LCD_CURSOR", 0x2600000000#40⟩ : OpRow) ∈ opRows ∧
    (⟨"LCD_CURSOR", 0x2600000000#40⟩ : OpRow).spelledBy 0x26FFFFFFFF#40 = true ∧
    (⟨"LCD_CURSOR", 0x2600000000#40⟩ : OpRow).spelledBy 0x2700000000#40 = false := by decide

theorem witness_IgnoredBytesHaveNoEffect : decode 0x2100000055#40 = .instr (.lcdCmd 0x55#8) ∧
    opField 0x2100000055#40 = opField 0x21FFFFFFFF#40 := by decide

theorem witness_SourceLinesAssembleAsListed : 255 < 256 ∧ 65535 < 65536 ∧
    (SourceLine.string 0 [256]).wellFormed = false ∧ (SourceLine.lcdCursor 1 256).wellFormed = false := by decide

/-- A text that wraps at the top of the memory, one with a zero byte in it, an ill-formed one, and another line. -/
theorem witness_StringDirectivePlacesText : Memory.wf [] = true ∧ (SourceLine.string 0xFFFF [72, 105]).wellFormed = true ∧
    [72, 105].length < 65536 ∧ [72, 105][1]? = some 105 ∧
    (∀ k ≤ [72, 105].length, (2#16 : StrAddr) ≠ BitVec.ofNat 16 (0xFFFF + k)) ∧
    (SourceLine.string 5 [72, 0, 105]).wellFormed = true ∧
    [72, 0, 105].takeWhile (fun n => decide (n ≠ 0)) = [72] ∧
    (SourceLine.string 65536 [72]).wellFormed = false ∧ ∀ a t, SourceLine.lcdHome ≠ .string a t := by
  refine ⟨by decide, by decide, by decide, by decide, by decide, by decide, by decide, by decide, ?_⟩
  intro a t h
  cases h

/-- 30_encoding.md R83: the bytes the directive places. -/
theorem test_string_places :
    ([0xFFFF#16, 0#16, 1#16, 2#16].map (Memory.read ((SourceLine.string 0xFFFF [72, 105]).place []))) =
      [72#8, 105#8, 0#8, 0xFF#8] := by decide

theorem witness_StepRunsCommandInProgress :
    (started .rtcInit).env.acts = [] ∧ (started .rtcInit).busy = true ∧ decode (started .rtcInit).cmd = .instr .rtcInit ∧
    (withActs [.run] (started .rtcInit)).env.acts = .run :: [] ∧ (withActs [.run] (started .rtcInit)).busy = true ∧
    decode (BitVec.ofNat 40 0x1000000000) = .instr .rtcInit := by decide

theorem witness_IdleBlockAcceptsPresentedWord :
    (twoWords 0x2000000000#40 0#40 .nack).env.acts = [] ∧ (twoWords 0x2000000000#40 0#40 .nack).busy = false ∧
    (twoWords 0x2000000000#40 0#40 .nack).env.port = 0x2000000000#40 :: [0#40] ∧ State.reset.env.acts = [] ∧
    State.reset.busy = false ∧ State.reset.env.port = [] := by decide

theorem witness_BusyBlockLeavesWordsAtPort : (started .lcdInit).busy = true ∧ (started .lcdInit).env.acts = [] ∧
    (nextOf (step (started .lcdInit))).isSome = true ∧
    (withActs [.present 5#40] (started .lcdInit)).env.acts = .present 5#40 :: [] := by decide

/-- The reserved ranges at both ends of each. -/
theorem witness_ReservedOpcodeCompletesUnimplemented :
    ([0x02#8, 0x0F#8, 0x15#8, 0x1F#8, 0x27#8, 0xFF#8].all fun op =>
      decode (packWord op 0#8 0#8 0#8 0#8) == .reserved (opField (packWord op 0#8 0#8 0#8 0#8))) = true ∧
    (twoWords 0x2700000000#40 0#40 .nack).env.port = 0x2700000000#40 :: [0#40] ∧
    (twoWords 0x2700000000#40 0#40 .nack).busy = false ∧ (twoWords 0x2700000000#40 0#40 .nack).env.acts = [] := by decide

/-- One state for each of the four things a step can do. -/
theorem witness_CommandStepAdvancesWaitsOrResponds :
    (started .rtcInit).busy = true ∧ (nextOf (exec .rtcInit (started .rtcInit))).map (fun t => (t.busy, t.seq)) = some (true, 1) ∧
    (nextOf (exec .rtcGetTime { started .rtcGetTime with env := { Env.initial with busHung := true } })).map
      (fun t => (t.busy, t.phase)) = some (true, .issued) ∧
    (nextOf (exec .rtcGetTime (withBus .nack (started .rtcGetTime)))).map (fun t => (t.busy, t.seq, t.phase)) =
      some (true, 1, .failed) ∧
    (nextOf (exec .rtcGetTime { started .rtcGetTime with phase := .failed })).map (fun t => (t.busy, t.rsp)) =
      some (false, errRsp .busError) := by decide

theorem witness_SingleStepsAgreeWithBigStep : (started (.bin2bcd 5#8)).env.acts = [] ∧
    (started (.bin2bcd 5#8)).busy = true ∧ decode (started (.bin2bcd 5#8)).cmd = .instr (.bin2bcd 5#8) ∧
    (nextOf (runCommand (.bin2bcd 5#8) 3 (started (.bin2bcd 5#8)))).isSome = true := by decide

theorem witness_NoCommandWritesOutsideOrOperands : ∃ t, exec (.rtcSetDate 1#8 1#8 0#8 1#8) (started (.lcdHome)) = .next t :=
  ⟨_, rfl⟩

theorem witness_BcdCommandsFrame : (Instr.bin2bcd 7#8).isBcd = true ∧ ∃ t, exec (.bin2bcd 7#8) State.reset = .next t :=
  ⟨rfl, _, rfl⟩

theorem witness_RtcCommandsFrame : Instr.rtcGetTime.isRtc = true ∧ Instr.rtcInit.isRtc = true ∧
    (Instr.rtcSetTime 0#8 0#8 0#8 2#8).isRtc = true ∧ (nextOf (exec .rtcGetTime (started .rtcGetTime))).isSome = true := by
  decide

theorem witness_LcdCommandsFrame : Instr.lcdInit.isLcd = true ∧ (Instr.lcdStr 0#16).isLcd = true ∧
    (Instr.lcdChar 65#8).needsReady = true ∧ (started (.lcdChar 65#8)).lcdState ≠ .ready ∧
    (nextOf (exec (.lcdChar 65#8) (started (.lcdChar 65#8)))).isSome = true := by decide

theorem witness_BinToBcdOnItsDomain : 0 ≤ 99 ∧ 99 ≤ 99 ∧ 99 < 100 := by decide

theorem witness_BcdRoundTrip : ¬ ((hiNibble 0x0A#8).toNat ≤ 9 ∧ (loNibble 0x0A#8).toNat ≤ 9) ∧
    ¬ ((hiNibble 0xA0#8).toNat ≤ 9 ∧ (loNibble 0xA0#8).toNat ≤ 9) ∧ validBcd 0x99#8 = true := by decide

theorem witness_BcdToBinOnEveryByte : validBcd 0x99#8 = true ∧ validBcd 0x0A#8 = false := by decide

theorem witness_Bin2bcdResult : (99#8 : Byte).toNat ≤ 99 ∧ 99 < (100#8 : Byte).toNat := by decide

theorem witness_SecondsCodec : (59#8 : Byte).toNat ≤ 59 ∧ (0#8 : Byte).toNat ≤ 59 := by decide

theorem witness_HoursCodec : 1 ≤ (1#8 : Byte).toNat ∧ (1#8 : Byte).toNat ≤ 12 ∧ (12#8 : Byte).toNat ≤ 12 ∧
    (0#8 : Byte).toNat ≤ 23 ∧ (23#8 : Byte).toNat ≤ 23 ∧ (0x40#8 : Byte).getLsbD 6 = true ∧
    (0xBF#8 : Byte).getLsbD 6 = false := by decide

theorem witness_TimeCodecRoundTrip : hoursLegal 12#8 .pm = true ∧ hoursLegal 1#8 .am = true ∧
    hoursLegal 0#8 .hour24 = true ∧ hoursLegal 23#8 .hour24 = true ∧ (59#8 : Byte).toNat ≤ 59 := by decide

/-- 95_test_vectors.md B7: the edges of the ranges. -/
theorem witness_OperandRangeChecks : validTime 59#8 59#8 12#8 1#8 = true ∧ validTime 59#8 59#8 13#8 1#8 = false ∧
    validTime 0#8 0#8 0#8 0#8 = false ∧ validTime 0#8 0#8 0#8 2#8 = true ∧ validTime 0#8 0#8 24#8 2#8 = false ∧
    validTime 60#8 0#8 0#8 2#8 = false ∧ validTime 0#8 60#8 0#8 2#8 = false ∧ validTime 0#8 0#8 1#8 3#8 = false ∧
    validDate 31#8 12#8 99#8 7#8 = true ∧ validDate 31#8 2#8 0#8 1#8 = true ∧ validDate 0#8 1#8 0#8 1#8 = false ∧
    validDate 1#8 13#8 0#8 1#8 = false ∧ validDate 1#8 1#8 100#8 1#8 = false ∧ validDate 1#8 1#8 0#8 8#8 = false := by decide

theorem witness_InvalidFieldsWriteNothing : validTime 60#8 0#8 0#8 2#8 = false ∧ validDate 0#8 1#8 0#8 1#8 = false := by
  decide

/-- A command just accepted on a bus that answers `ok` with these bytes. -/
def startedOk (bytes : List Byte) (i : Instr) : State := withBus (.script (bytes.map BusAnswer.ok)) (started i)

theorem witness_RtcInitRun : AtStart (startedOk [0#8, 0#8, 0x80#8] .rtcInit) ∧
    (startedOk [0#8, 0#8, 0x80#8] .rtcInit).env.busHung = false ∧
    (startedOk [0#8, 0#8, 0x80#8] .rtcInit).env.bus = .script (.ok 0#8 :: .ok 0#8 :: .ok 0x80#8 :: []) :=
  ⟨⟨by decide, by decide, by decide⟩, by decide, rfl⟩

theorem witness_RtcSetTimeRun : AtStart (startedOk [0#8, 0#8, 0#8] (.rtcSetTime 59#8 59#8 12#8 1#8)) ∧
    (startedOk [0#8, 0#8, 0#8] (.rtcSetTime 59#8 59#8 12#8 1#8)).env.busHung = false ∧ validTime 59#8 59#8 12#8 1#8 = true ∧
    (startedOk [0#8, 0#8, 0#8] (.rtcSetTime 59#8 59#8 12#8 1#8)).env.bus = .script (.ok 0#8 :: .ok 0#8 :: .ok 0#8 :: []) :=
  ⟨⟨by decide, by decide, by decide⟩, by decide, by decide, rfl⟩

theorem witness_RtcGetTimeRun : AtStart (startedOk [0#8, 0x59#8, 0#8, 0x59#8, 0#8, 0x23#8] .rtcGetTime) ∧
    (startedOk [0#8, 0x59#8, 0#8, 0x59#8, 0#8, 0x23#8] .rtcGetTime).env.busHung = false ∧
    (startedOk [0#8, 0x59#8, 0#8, 0x59#8, 0#8, 0x23#8] .rtcGetTime).env.bus = .script (.ok 0#8 :: .ok 0x59#8 :: .ok 0#8 :: .ok 0x59#8 :: .ok 0#8 :: .ok 0x23#8 :: []) :=
  ⟨⟨by decide, by decide, by decide⟩, by decide, rfl⟩

theorem witness_RtcSetDateRun : AtStart (startedOk [0#8, 0#8, 0#8, 0#8] (.rtcSetDate 31#8 12#8 99#8 7#8)) ∧
    (startedOk [0#8, 0#8, 0#8, 0#8] (.rtcSetDate 31#8 12#8 99#8 7#8)).env.busHung = false ∧ validDate 31#8 12#8 99#8 7#8 = true ∧
    (startedOk [0#8, 0#8, 0#8, 0#8] (.rtcSetDate 31#8 12#8 99#8 7#8)).env.bus = .script (.ok 0#8 :: .ok 0#8 :: .ok 0#8 :: .ok 0#8 :: []) :=
  ⟨⟨by decide, by decide, by decide⟩, by decide, by decide, rfl⟩

theorem witness_RtcGetDateRun : AtStart (startedOk [0#8, 0x31#8, 0#8, 0x12#8, 0#8, 0x99#8, 0#8, 0x07#8] .rtcGetDate) ∧
    (startedOk [0#8, 0x31#8, 0#8, 0x12#8, 0#8, 0x99#8, 0#8, 0x07#8] .rtcGetDate).env.busHung = false ∧
    (startedOk [0#8, 0x31#8, 0#8, 0x12#8, 0#8, 0x99#8, 0#8, 0x07#8] .rtcGetDate).env.bus = .script (.ok 0#8 :: .ok 0x31#8 :: .ok 0#8 :: .ok 0x12#8 :: .ok 0#8 :: .ok 0x99#8 :: .ok 0#8 :: .ok 0x07#8 :: []) :=
  ⟨⟨by decide, by decide, by decide⟩, by decide, rfl⟩

/-- `RTC_GET_DATE` just accepted, the transaction after these answers failing. -/
def failAfter (answers : List Byte) : State :=
  withBus (.script (answers.map BusAnswer.ok ++ .fail :: [])) (started .rtcGetDate)

/-- The events of `RTC_GET_DATE`. -/
def getDateEvents : List Event :=
  regReadEvents {} 4#8 ++ regReadEvents {} 5#8 ++ regReadEvents {} 6#8 ++ regReadEvents {} 3#8

/-- The first transaction fails; and the last one. -/
theorem witness_FirstFailedTransactionEndsCommand :
    Instr.rtcGetDate.isRtc = true ∧ Instr.rtcGetDate.operandsLegal = true ∧
    commandEvents {} .rtcGetDate = some getDateEvents ∧ AtStart (failAfter []) ∧ (failAfter []).env.busHung = false ∧
    ([] : List Byte).length < getDateEvents.countP Event.isBus ∧ AtStart (failAfter [0#8, 1#8, 0#8, 1#8, 0#8, 1#8, 0#8]) ∧
    [0#8, 1#8, 0#8, 1#8, 0#8, 1#8, 0#8].length < getDateEvents.countP Event.isBus :=
  ⟨rfl, rfl, by decide, ⟨by decide, by decide, by decide⟩, by decide, by decide, ⟨by decide, by decide, by decide⟩,
    by decide⟩

theorem witness_NeverAcknowledged : Instr.rtcInit.isRtc = true ∧ Instr.rtcInit.operandsLegal = true ∧
    AtStart (withBus .nack (started .rtcInit)) ∧ (withBus .nack (started .rtcInit)).env.bus = .nack ∧
    (Instr.rtcSetTime 15#8 59#8 11#8 3#8).operandsLegal = false :=
  ⟨rfl, rfl, ⟨by decide, by decide, by decide⟩, rfl, by decide⟩

theorem witness_SetThenGetReturnsOperands :
    Quiet (twoWords (encode (.rtcSetTime 15#8 59#8 11#8 1#8)) (encode .rtcGetTime) (.sim [] haltedChip)) ∧
    (twoWords (encode (.rtcSetTime 15#8 59#8 11#8 1#8)) (encode .rtcGetTime) (.sim [] haltedChip)).busy = false ∧
    Params.wf {} ∧ haltedChip.wf = true ∧ validTime 15#8 59#8 11#8 1#8 = true ∧
    Quiet (twoWords (encode (.rtcSetDate 31#8 12#8 99#8 7#8)) (encode .rtcGetDate) (.sim [] haltedChip)) ∧
    validDate 31#8 12#8 99#8 7#8 = true :=
  ⟨⟨rfl, rfl, rfl⟩, rfl, by decide, by decide, by decide, ⟨rfl, rfl, rfl⟩, by decide⟩

/-- The chip's address past its own registers is another register. -/
theorem witness_RtcCommandsOnChipRegisters :
    AtStart (withBus (.sim [] haltedChip) (started (.rtcSetTime 59#8 59#8 12#8 1#8))) ∧
    AtStart (withBus (.sim [] haltedChip) (started (.rtcSetDate 31#8 12#8 99#8 7#8))) ∧
    AtStart (withBus (.sim [] haltedChip) (started .rtcGetTime)) ∧ State.reset.env.busHung = false ∧ Params.wf {} ∧
    haltedChip.wf = true ∧ validTime 59#8 59#8 12#8 1#8 = true ∧ validDate 31#8 12#8 99#8 7#8 = true ∧
    ∀ r ∈ [0#8, 1#8, 2#8, 3#8, 4#8, 5#8, 6#8], (0xFF#8 : Byte) ≠ r :=
  ⟨⟨by decide, by decide, by decide⟩, ⟨by decide, by decide, by decide⟩, ⟨by decide, by decide, by decide⟩,
    by decide, by decide, by decide, by decide, by decide, by decide⟩

theorem witness_RtcInitCannotSeeHaltedClock : AtStart (withBus (.sim [] haltedChip) (started .rtcInit)) ∧
    haltedChip.wf = true ∧ (1#8 : Byte) ≠ (withBus (.sim [] haltedChip) (started .rtcInit)).params.regSeconds :=
  ⟨⟨by decide, by decide, by decide⟩, by decide, by decide⟩

/-- Two states that differ in what the other part owns, the byte it keeps included. -/
theorem witness_RtcAndLcdShareNoState :
    Instr.rtcGetTime.isRtc = true ∧ (startedReady .rtcGetTime).seq = (started .rtcGetTime).seq ∧
    (startedReady .rtcGetTime).scratch = (started .rtcGetTime).scratch ∧
    (startedReady .rtcGetTime).lines ≠ (started .rtcGetTime).lines ∧
    { startedReady .rtcGetTime with held := 1#8 }.readBack = (started .rtcGetTime).readBack ∧
    (nextOf (exec .rtcGetTime (startedReady .rtcGetTime))).isSome = true ∧
    (Instr.lcdHome).isLcd = true ∧ (withBus .nack (startedReady .lcdHome)).lines = (startedReady .lcdHome).lines ∧
    (withBus .nack (startedReady .lcdHome)).env.bus ≠ (startedReady .lcdHome).env.bus ∧
    (nextOf (exec .lcdHome (startedReady .lcdHome))).isSome = true := by decide

theorem witness_NotReadyCommandsDoNothing : (Instr.lcdCursor 3#8 5#8).needsReady = true ∧
    (started (.lcdCursor 3#8 5#8)).lcdState ≠ .ready := by decide

theorem witness_LcdInitRun : AtStart (started .lcdInit) ∧ (started .lcdInit).env.delayHung = false ∧ 0 < 122 ∧ 122 ≤ 122 :=
  ⟨⟨by decide, by decide, by decide⟩, by decide, by decide, by decide⟩

theorem witness_EventCountsAndDelaySums : DefaultDelays {} ∧ AtStart (started .lcdInit) ∧
    (started .lcdInit).env.delayHung = false ∧ AtStart (startedReady (.lcdStr 0xFFFF#16)) ∧
    (startedReady (.lcdStr 0xFFFF#16)).lcdState = .ready ∧ (started .lcdHome).lcdState ≠ .ready ∧
    Instr.lcdHome.needsReady = true ∧
    StringAt (placeString [] 0xFFFF#16 [0x48#8, 0x69#8]) 0xFFFF#16 [0x48#8, 0x69#8] :=
  ⟨⟨rfl, rfl, rfl, rfl, rfl, rfl⟩, ⟨by decide, by decide, by decide⟩, by decide, ⟨by decide, by decide, by decide⟩,
    by decide, by decide, rfl, by decide, by decide, by decide, by decide, show Memory.read _ _ = _ by decide⟩

theorem witness_PowerOnNibbles : (nibbles (lcdInitEvents {})).length = 12 := by decide

/-- A byte sent, and a row that sends none. -/
theorem witness_LcdSendRun : (Instr.lcdCursor 2#8 16#8).needsReady = true ∧
    commandEvents {} (.lcdCursor 2#8 16#8) = some (byteEvents {} false 0xCF#8) ∧ byteEvents {} false 0xCF#8 ≠ [] ∧
    commandEvents {} (.lcdCursor 3#8 16#8) = some [] ∧ (startedReady (.lcdCursor 2#8 16#8)).lcdState = .ready ∧
    AtStart (startedReady (.lcdCursor 2#8 16#8)) ∧ (startedReady (.lcdCursor 2#8 16#8)).env.delayHung = false :=
  ⟨by decide, by decide, by decide, by decide, by decide, ⟨by decide, by decide, by decide⟩, by decide⟩

/-- The events of `LCD_HOME` (95_test_vectors.md B12). -/
def homeEvents : List Event := byteEvents {} false 2#8 ++ [.delayMs 2]

/-- A position in the list, its last, and the one past it. -/
theorem witness_EveryPositionMakesItsEvent :
    commandEvents {} .lcdHome = some homeEvents ∧ Instr.lcdHome.operandsLegal = true ∧
    (startedReady .lcdHome).lcdState = .ready ∧ (startedReady .lcdHome).phase = .fresh ∧
    (startedReady .lcdHome).env.busHung = false ∧ (startedReady .lcdHome).env.delayHung = false ∧
    (withBus (.script [.ok 0#8]) (startedReady .lcdHome)).env.bus = .script (.ok 0#8 :: []) ∧
    homeEvents[0]? = some (.lineWrite .rs false) ∧
    homeEvents[18]? = some (.delayMs 2) ∧
    homeEvents.length ≤ 19 := by decide

/-- The three cases of the loop at their edges: positions 0, 19, 1 and 18 in it. -/
theorem witness_LcdStrStepInItsLoop : (startedReady (.lcdStr 0#16)).lcdState = .ready ∧ 0 % 19 = 0 ∧ 19 % 19 = 0 ∧
    (1 : Nat) % 19 ≠ 0 ∧ (startedReady (.lcdStr 0#16)).held = 0x00#8 ∧ (65#8 : Byte) ≠ 0x00#8 ∧ 18 % 19 = 17 + 1 ∧
    (byteEvents {} true 65#8)[0]? = some (.lineWrite .rs true) ∧ (byteEvents {} true 65#8)[17]? = some (.delayUs 100) ∧
    (startedReady (.lcdStr 0#16)).phase = .fresh ∧ (startedReady (.lcdStr 0#16)).env.delayHung = false := by decide

/-- The string "Hi" across the top of the memory, and the empty string. -/
theorem witness_LcdStrRun : AtStart (startedReady (.lcdStr 0xFFFF#16)) ∧
    (startedReady (.lcdStr 0xFFFF#16)).lcdState = .ready ∧ (startedReady (.lcdStr 0xFFFF#16)).env.delayHung = false ∧
    StringAt (placeString [] 0xFFFF#16 [0x48#8, 0x69#8]) 0xFFFF#16 [0x48#8, 0x69#8] ∧ StringAt (placeString [] 0#16 []) 0#16 [] :=
  ⟨⟨by decide, by decide, by decide⟩, by decide, by decide, ⟨by decide, by decide, by decide, by decide, show Memory.read _ _ = _ by decide⟩,
    show Memory.read _ _ = _ by decide⟩

theorem witness_LcdStrWithoutTerminatorNeverResponds : AtStart (startedReady (.lcdStr 0#16)) ∧
    (startedReady (.lcdStr 0#16)).lcdState = .ready ∧ ∀ a : StrAddr, Memory.read (startedReady (.lcdStr 0#16)).env.mem a ≠ 0x00#8 := by
  refine ⟨⟨by decide, by decide, by decide⟩, by decide, fun a => ?_⟩
  have empty : (startedReady (.lcdStr 0#16)).env.mem = [] := by decide
  rw [empty]
  exact show Config.unlistedStringByte ≠ 0x00#8 by decide

theorem witness_CursorCommandByte : (3#8 : Byte) ≠ 1#8 ∧ (3#8 : Byte) ≠ 2#8 ∧ 1 ≤ (1#8 : Byte).toNat ∧ (16#8 : Byte).toNat ≤ 16 := by
  decide

/-- A completion with `OK`, a cell of the matrix for each other status, and a reserved word. -/
theorem witness_StatusMatrix :
    (nextOf (exec (.bin2bcd 5#8) (started (.bin2bcd 5#8)))).map (fun t => t.busy) = some false ∧
    Instr.rtcGetDate.mayReport .busError = true ∧ (Instr.bin2bcd 0#8).mayReport .invalidField = true ∧
    Instr.lcdHome.mayReport .notReady = true ∧ Instr.lcdInit.mayReport .ok = true ∧
    decode (accept 0xFF00000000#40 State.reset).cmd = .reserved 0xFF#8 := by decide

theorem witness_ResetAtAnyTime : (withActs [.reset, .run] (started .lcdInit)).env.acts = .reset :: [.run] := by decide

/-- A step for each way `lcd_state` moves. -/
theorem witness_OnlyInitAndResetMoveLcdState :
    (nextOf (step (withActs [.reset] (startedReady .lcdHome)))).map (fun t => t.lcdState) = some .uninitialized ∧
    (nextOf (step (twoWords 0x2000000000#40 0#40 .nack))).map (fun t => t.lcdState) = some .initializing ∧
    (nextOf (step (atSeq 122 (started .lcdInit)))).map (fun t => t.lcdState) = some .ready := by decide

/-- Idle in `Uninitialized`, `LCD_INIT` presented: the LCD invariant holds. -/
theorem witness_OnlyInitAndResetMoveLcdState_accept : LcdInv (twoWords 0x2000000000#40 0#40 .nack) :=
  ⟨by decide, by decide, fun h => absurd h (by decide), fun h => absurd h (by decide), by decide,
    fun h => absurd h (by decide), fun h => absurd h (by decide)⟩

/-- `LCD_INIT` past its last micro-operation: the LCD invariant holds. -/
theorem witness_OnlyInitAndResetMoveLcdState_done : LcdInv { atSeq 122 (started .lcdInit) with lines := lowLines } := by
  have dec : decode (encode .lcdInit) = .instr .lcdInit := by decide
  refine ⟨by decide, fun h => absurd h (by decide), fun h => absurd h (by decide), fun _ j l hl _ => ?_, by decide,
    fun h => absurd h (by decide), fun _ a h => ?_⟩
  · cases l <;> exact .inl rfl
  · exact absurd (dec.symm.trans h) (by simp)

/-- `RTC_GET_TIME` waiting for the answer to its first read. -/
def stuckRead : State :=
  { atSeq 1 (started .rtcGetTime) with phase := .issued, env := { Env.initial with busHung := true } }

/-- `LCD_INIT` waiting for the return of its first delay. -/
def stuckDelay : State :=
  { atSeq 14 (started .lcdInit) with phase := .issued, env := { Env.initial with delayHung := true } }

/-- The events of `RTC_GET_TIME`. -/
def getTimeEvents : List Event := regReadEvents {} 0#8 ++ regReadEvents {} 1#8 ++ regReadEvents {} 2#8

theorem witness_SilentCollaboratorFreezesBlock_bus : stuckRead.busy = true ∧ stuckRead.phase = .issued ∧
    stuckRead.env.acts = [] ∧ decode stuckRead.cmd = .instr .rtcGetTime ∧
    commandEvents stuckRead.params .rtcGetTime = some getTimeEvents ∧
    getTimeEvents[stuckRead.seq]? = some (.busRead 0x68#7 1) ∧ Instr.rtcGetTime.operandsLegal = true ∧
    Instr.rtcGetTime.needsReady = false ∧ Instr.rtcGetTime ≠ .lcdInit ∧ Event.isBus (.busRead 0x68#7 1) = true ∧
    stuckRead.env.busHung = true := by decide

theorem witness_SilentCollaboratorFreezesBlock_delay : stuckDelay.busy = true ∧ stuckDelay.phase = .issued ∧
    stuckDelay.env.acts = [] ∧ decode stuckDelay.cmd = .instr .lcdInit ∧
    commandEvents stuckDelay.params .lcdInit = some (lcdInitEvents {}) ∧
    (lcdInitEvents {})[stuckDelay.seq]? = some (.delayMs 40) ∧ Instr.lcdInit.operandsLegal = true ∧
    Instr.lcdInit.needsReady = false ∧ stuckDelay.lcdState = .initializing ∧ Event.isDelay (.delayMs 40) = true ∧
    stuckDelay.env.delayHung = true := by decide

/-- `LCD_STR` in the middle of its character 'A', waiting for the return of its second delay. -/
def stuckChar : State :=
  { atSeq 10 (startedReady (.lcdStr 0#16)) with
    phase := .issued, held := 65#8, env := { Env.initial with delayHung := true } }

theorem witness_SilentCollaboratorFreezesBlock_str : stuckChar.busy = true ∧ stuckChar.phase = .issued ∧
    stuckChar.env.acts = [] ∧ decode stuckChar.cmd = .instr (.lcdStr 0#16) ∧ (Instr.lcdStr 0#16).operandsLegal = true ∧
    stuckChar.lcdState = .ready ∧ stuckChar.seq % 19 = 9 + 1 ∧ stuckChar.held ≠ 0x00#8 ∧
    (byteEvents stuckChar.params true stuckChar.held)[9]? = some (.delayUs 100) ∧
    Event.isDelay (.delayUs 100) = true ∧ stuckChar.env.delayHung = true := by decide

theorem witness_HostReadsOfResponse :
    (withActs [.takeResponse] State.reset).env.acts = .takeResponse :: [] ∧ State.reset.rsp.valid = false ∧
    (withActs [.takeResults] { State.reset with rsp := errRsp .busError }).env.acts = .takeResults :: [] ∧
    (withActs [.takeResults] { State.reset with rsp := errRsp .busError }).rsp.valid = true ∧
    (withActs [.takeResults] { State.reset with rsp := errRsp .busError }).rsp.results = none := by decide

/-- The premises of the clauses on the port invariant, the status `OK` and another. -/
theorem witness_HostReadsOfResponse_results :
    PortInv (withActs [.takeResults] { State.reset with rsp := okRsp 0#8 0#8 0#8 0x59#8 }) ∧
    (withActs [.takeResults] { State.reset with rsp := okRsp 0#8 0#8 0#8 0x59#8 }).rsp.valid = true ∧
    (withActs [.takeResults] { State.reset with rsp := okRsp 0#8 0#8 0#8 0x59#8 }).rsp.results =
      some ⟨0#8, 0#8, 0#8, 0x59#8⟩ ∧
    PortInv (withActs [.takeResults] { State.reset with rsp := errRsp .busError }) ∧ Status.busError ≠ .ok :=
  ⟨⟨by decide, by decide, by decide, fun h => absurd h (by decide)⟩, by decide, by decide,
    ⟨by decide, by decide, by decide, fun h => absurd h (by decide)⟩, by decide⟩

/-- A command just accepted, and one that is left with a failed transaction. -/
theorem witness_PortInvariantKept : PortInv (started .rtcInit) ∧ (nextOf (step (started .rtcInit))).isSome = true ∧
    PortInv { started .rtcGetTime with phase := .failed } :=
  ⟨⟨by decide, by decide, by decide, fun h => absurd h (by decide)⟩, by decide,
    ⟨by decide, by decide, by decide, fun _ => ⟨.rtcGetTime, by decide, rfl, rfl⟩⟩⟩

theorem witness_MemoryInvariantKept : MemInv (withActs [.poke 0xFFFF#16 0#8] (withBus (.sim [] haltedChip) State.reset)) ∧
    (nextOf (step (withActs [.poke 0xFFFF#16 0#8] (withBus (.sim [] haltedChip) State.reset)))).isSome = true :=
  ⟨⟨by decide, by decide, by decide⟩, by decide⟩

/-- `LCD_INIT` inside its first pulse: EN high, every line driven, RW low. -/
theorem witness_LcdInvariantKept :
    LcdInv { atSeq 20 (started .lcdInit) with lines := { lowLines with en := .high, d4 := .high, d5 := .high } } := by
  have dec : decode (encode .lcdInit) = .instr .lcdInit := by decide
  refine ⟨by decide, fun h => absurd h (by decide), fun h => absurd h (by decide), fun _ j l hl _ => ?_, by decide, fun _ => ⟨by decide, .lcdInit, dec, by decide⟩,
    fun _ a h => ?_⟩
  · cases l <;> first | exact .inl rfl | exact .inr rfl
  · exact absurd (dec.symm.trans h) (by simp)

end Sys2Proof.Tests
end

section
/-! PROOFS. The decoder and the encoder (30_encoding.md R70 to R85): the fields of a word, what each format keeps
of a word, the decoder's inversion `decode_eq_instr_iff`, and the obligations on encoding. -/

namespace Sys2Proof

/-! ### The fields of a word as numbers (R70) -/

theorem opField_toNat (w : Word40) : (opField w).toNat = w.toNat / 2 ^ 32 := by
  have bound : w.toNat < 2 ^ 40 := w.isLt
  rw [opField, BitVec.extractLsb'_toNat, Nat.shiftRight_eq_div_pow]
  omega

theorem extractByte_eq_ofNat (w : Word40) (k : Nat) :
    w.extractLsb' k 8 = BitVec.ofNat 8 (w.toNat / 2 ^ k % 256) := by
  apply BitVec.eq_of_toNat_eq
  simp [BitVec.extractLsb'_toNat, Nat.shiftRight_eq_div_pow]

theorem a3Field_eq_ofNat (w : Word40) : a3Field w = BitVec.ofNat 8 (w.toNat / 2 ^ 24 % 256) :=
  extractByte_eq_ofNat w 24

theorem a2Field_eq_ofNat (w : Word40) : a2Field w = BitVec.ofNat 8 (w.toNat / 2 ^ 16 % 256) :=
  extractByte_eq_ofNat w 16

theorem a1Field_eq_ofNat (w : Word40) : a1Field w = BitVec.ofNat 8 (w.toNat / 2 ^ 8 % 256) :=
  extractByte_eq_ofNat w 8

theorem a0Field_eq_ofNat (w : Word40) : a0Field w = BitVec.ofNat 8 (w.toNat % 256) := by
  simpa [a0Field] using extractByte_eq_ofNat w 0

/-- The address of R76 as a number. -/
theorem addrOf_eq_ofNat (a1 a0 : Byte) : addrOf a1 a0 = BitVec.ofNat 16 (a1.toNat * 256 + a0.toNat) := by
  have high : a1.toNat < 256 := a1.isLt
  have low : a0.toNat < 2 ^ 8 := a0.isLt
  apply BitVec.eq_of_toNat_eq
  rw [addrOf, BitVec.toNat_cast, BitVec.toNat_append, ← Nat.shiftLeft_add_eq_or_of_lt low, Nat.shiftLeft_eq,
    BitVec.toNat_ofNat]
  omega

/-- The decoder reads a word as R85 does, its fields as numbers. -/
theorem decode_eq_decodedByRule (w : Word40) : decode w = decodedByRule w := by
  simp only [decodedByRule, ← opField_toNat, ← a3Field_eq_ofNat, ← a2Field_eq_ofNat, ← a1Field_eq_ofNat,
    ← a0Field_eq_ofNat, ← addrOf_eq_ofNat]
  unfold decode
  split <;> simp_all

/-! ### What an operand format keeps of a word (R73 to R77) -/

/-- A word is its five bytes (R70). -/
theorem packWord_fields (w : Word40) :
    packWord (opField w) (a3Field w) (a2Field w) (a1Field w) (a0Field w) = w := by
  apply BitVec.eq_of_getLsbD_eq
  intro k hk
  simp only [packWord_getLsbD, opField, a3Field, a2Field, a1Field, a0Field, BitVec.getLsbD_extractLsb']
  split_ifs <;> rw [decide_eq_true (by omega), Bool.true_and] <;> congr 1 <;> omega

/-- A mask acts on a word byte by byte. -/
theorem and_packWord (w : Word40) (m4 m3 m2 m1 m0 : Byte) : w &&& packWord m4 m3 m2 m1 m0 =
    packWord (opField w &&& m4) (a3Field w &&& m3) (a2Field w &&& m2) (a1Field w &&& m1) (a0Field w &&& m0) := by
  apply BitVec.eq_of_getLsbD_eq
  intro k hk
  rw [← packWord_fields w]
  simp only [BitVec.getLsbD_and, packWord_getLsbD, opField_pack, a3Field_pack, a2Field_pack, a1Field_pack, a0Field_pack]
  split_ifs <;> rfl

/-- The mask `0xFF` keeps a byte. -/
theorem and_fullByte (b : Byte) : b &&& 0xFF#8 = b := BitVec.and_allOnes

/-- Format N keeps the opcode alone (R73). -/
theorem and_formatN (w : Word40) : w &&& 0xFF00000000#40 = packWord (opField w) 0#8 0#8 0#8 0#8 :=
  (and_packWord w 0xFF#8 0#8 0#8 0#8 0#8).trans (by simp [and_fullByte])

/-- Format B keeps the opcode and one byte (R74). -/
theorem and_formatB (w : Word40) : w &&& 0xFF000000FF#40 = packWord (opField w) 0#8 0#8 0#8 (a0Field w) :=
  (and_packWord w 0xFF#8 0#8 0#8 0#8 0xFF#8).trans (by simp [and_fullByte])

/-- Formats P and A keep the opcode and two bytes (R75, R76). -/
theorem and_formatPA (w : Word40) : w &&& 0xFF0000FFFF#40 = packWord (opField w) 0#8 0#8 (a1Field w) (a0Field w) :=
  (and_packWord w 0xFF#8 0#8 0#8 0xFF#8 0xFF#8).trans (by simp [and_fullByte])

/-- Format Q keeps every byte (R77). -/
theorem and_formatQ (w : Word40) : w &&& 0xFFFFFFFFFF#40 =
    packWord (opField w) (a3Field w) (a2Field w) (a1Field w) (a0Field w) :=
  (and_packWord w 0xFF#8 0xFF#8 0xFF#8 0xFF#8 0xFF#8).trans (by simp only [and_fullByte])

/-- Every command uses the opcode (R81). -/
@[simp] theorem opField_and_usedBits (w : Word40) (i : Instr) : opField (w &&& i.usedBits) = opField w := by
  cases i <;> simp only [Instr.usedBits, and_formatN, and_formatB, and_formatPA, and_formatQ, opField_pack]

/-- Replacing the bits outside a mask changes nothing of what the mask keeps. -/
theorem replaceUnused_and (w junk m : Word40) : ((w &&& m) ||| (junk &&& ~~~m)) &&& m = w &&& m := by
  apply BitVec.eq_of_getLsbD_eq
  intro k hk
  simp only [BitVec.getLsbD_and, BitVec.getLsbD_or, BitVec.getLsbD_not]
  cases m.getLsbD k <;> simp

/-! ### The two halves of an address -/

@[simp] theorem addrHigh_addrOf (a1 a0 : Byte) : addrHigh (addrOf a1 a0) = a1 := by
  have high : a1.toNat < 256 := a1.isLt
  have low : a0.toNat < 256 := a0.isLt
  apply BitVec.eq_of_toNat_eq
  rw [addrHigh, addrOf_eq_ofNat, BitVec.extractLsb'_toNat, BitVec.toNat_ofNat, Nat.shiftRight_eq_div_pow]
  omega

@[simp] theorem addrLow_addrOf (a1 a0 : Byte) : addrLow (addrOf a1 a0) = a0 := by
  have low : a0.toNat < 256 := a0.isLt
  apply BitVec.eq_of_toNat_eq
  rw [addrLow, addrOf_eq_ofNat, BitVec.extractLsb'_toNat, BitVec.toNat_ofNat, Nat.shiftRight_eq_div_pow]
  omega

/-! ### The decoder and the encoder -/

@[simp] theorem opField_encode (i : Instr) : opField (encode i) = i.opcode := by
  cases i <;> exact opField_pack ..

/-- Decoding an encoded command gives the command back (R85). -/
@[simp] theorem decode_encode (i : Instr) : decode (encode i) = .instr i := by
  cases i <;> simp [decode, encode]

theorem encode_injective : Function.Injective encode := by
  intro i j h
  simpa using congrArg decode h

/-- The command of `i`'s row with the operands a word has in the bytes of the row's format (R73 to R77). -/
def Instr.readFrom (w : Word40) : Instr → Instr
  | .bin2bcd _ => .bin2bcd (a0Field w)
  | .bcd2bin _ => .bcd2bin (a0Field w)
  | .rtcInit => .rtcInit
  | .rtcSetTime _ _ _ _ => .rtcSetTime (a0Field w) (a1Field w) (a2Field w) (a3Field w)
  | .rtcGetTime => .rtcGetTime
  | .rtcSetDate _ _ _ _ => .rtcSetDate (a0Field w) (a1Field w) (a2Field w) (a3Field w)
  | .rtcGetDate => .rtcGetDate
  | .lcdInit => .lcdInit
  | .lcdCmd _ => .lcdCmd (a0Field w)
  | .lcdChar _ => .lcdChar (a0Field w)
  | .lcdStr _ => .lcdStr (addrOf (a1Field w) (a0Field w))
  | .lcdHome => .lcdHome
  | .lcdClear => .lcdClear
  | .lcdCursor _ _ => .lcdCursor (a1Field w) (a0Field w)

@[simp] theorem Instr.mnemonic_readFrom (w : Word40) (i : Instr) : (i.readFrom w).mnemonic = i.mnemonic := by
  cases i <;> rfl

/-- The word of the command read from `w` is `w` with its ignored bytes 0. -/
theorem encode_readFrom {w : Word40} {i : Instr} (op : opField w = i.opcode) :
    encode (i.readFrom w) = w &&& i.usedBits := by
  cases i <;> simp [encode, Instr.readFrom, Instr.usedBits, and_formatN, and_formatB, and_formatPA, and_formatQ, op,
    Instr.opcode]

/-- The opcode alone names the command (R81): a word with a command's opcode decodes to a command of its row. -/
theorem decode_of_opcode {w : Word40} {i : Instr} (op : opField w = i.opcode) : decode w = .instr (i.readFrom w) := by
  cases i <;> simp [decode, op, Instr.opcode, Instr.readFrom]

/-- A word decodes to a command of its own opcode. -/
theorem opcode_of_decode {w : Word40} {i : Instr} (h : decode w = .instr i) : i.opcode = opField w := by
  unfold decode at h
  split at h <;> cases h <;> exact (BitVec.eq_of_toNat_eq ‹_›).symm

/-- A reserved word is named by its own opcode (R80). -/
theorem op_of_decode_reserved {w : Word40} {op : Byte} (h : decode w = .reserved op) : op = opField w := by
  unfold decode at h
  split at h <;> cases h
  rfl

/-- A word decodes to a command exactly when its used bits are the command's word (R81, R85). -/
theorem decode_eq_instr_iff (w : Word40) (i : Instr) : decode w = .instr i ↔ encode i = w &&& i.usedBits := by
  constructor
  · intro h
    have op : opField w = i.opcode := (opcode_of_decode h).symm
    have read : i = i.readFrom w := by simpa using h.symm.trans (decode_of_opcode op)
    calc encode i = encode (i.readFrom w) := congrArg encode read
      _ = w &&& i.usedBits := encode_readFrom op
  · intro h
    have op : opField w = i.opcode := by rw [← opField_and_usedBits w i, ← h, opField_encode]
    have read : i.readFrom w = i := encode_injective ((encode_readFrom op).trans h.symm)
    rw [decode_of_opcode op, read]

/-- A word is reserved exactly when no command has its opcode (R80, R85). -/
theorem decode_eq_reserved_iff (w : Word40) :
    decode w = .reserved (opField w) ↔ ∀ i : Instr, i.opcode ≠ opField w := by
  constructor
  · intro h i op
    exact absurd (h.symm.trans (decode_of_opcode op.symm)) (by simp)
  · intro unnamed
    cases h : decode w with
    | instr i => exact absurd (opcode_of_decode h) (unnamed i)
    | reserved op => rw [op_of_decode_reserved h]

/-! ### The obligations -/

/-- Settles O1: the decoder is the rule's reading, and inverts the encoder. -/
theorem decodeInvertsEncode : Obligations.DecodeInvertsEncode :=
  ⟨decode_eq_decodedByRule, decode_encode,
    fun w i h => ⟨opcode_of_decode h, (decode_eq_instr_iff w i).mp h⟩, decode_eq_reserved_iff⟩

/-- Settles O3: what a word decodes to is fixed by its used bits, and the row by its opcode. -/
theorem ignoredBytesHaveNoEffect : Obligations.IgnoredBytesHaveNoEffect := by
  constructor
  · intro w junk i h
    rw [decode_eq_instr_iff] at h ⊢
    rw [replaceUnused_and, h]
  · intro w w' i same h
    have op : opField w' = i.opcode := same.symm.trans (opcode_of_decode h).symm
    exact ⟨i.readFrom w', decode_of_opcode op, i.mnemonic_readFrom w'⟩

end Sys2Proof
end

section
/-! PROOFS. The BCD codec and its two commands (40_bcd.md): the two functions as numbers, `binToBcd_eq_some_iff`, which
says that they are each other's inverse on 0 to 99 and the valid bytes, the step of each command, and the obligations
on both. -/

namespace Sys2Proof.Machine

/-! ### The two functions as numbers (R100, R101) -/

@[simp] theorem hiNibble_toNat (b : Byte) : (hiNibble b).toNat = b.toNat / 16 := by
  have bound : b.toNat < 256 := b.isLt
  rw [hiNibble, BitVec.extractLsb'_toNat, Nat.shiftRight_eq_div_pow]
  omega

@[simp] theorem loNibble_toNat (b : Byte) : (loNibble b).toNat = b.toNat % 16 :=
  BitVec.extractLsb'_toNat ..

theorem validBcd_iff_nibbles (b : Byte) : validBcd b = true ↔ (hiNibble b).toNat ≤ 9 ∧ (loNibble b).toNat ≤ 9 := by
  rw [validBcd, Bool.and_eq_true, decide_eq_true_iff, decide_eq_true_iff]

theorem validBcd_iff (b : Byte) : validBcd b = true ↔ b.toNat / 16 ≤ 9 ∧ b.toNat % 16 ≤ 9 := by
  rw [validBcd_iff_nibbles, hiNibble_toNat, loNibble_toNat]

theorem bcdToBin_eq_ofNat (b : Byte) : bcdToBin b = BitVec.ofNat 8 (b.toNat / 16 * 10 + b.toNat % 16) := by
  rw [bcdToBin, hiNibble_toNat, loNibble_toNat]

/-- The formula of `bcd_to_bin` loses nothing in 8 bits (R103). -/
theorem bcdToBin_toNat (b : Byte) : (bcdToBin b).toNat = b.toNat / 16 * 10 + b.toNat % 16 := by
  have bound : b.toNat < 256 := b.isLt
  rw [bcdToBin_eq_ofNat, BitVec.toNat_ofNat]
  omega

theorem binToBcd_eq_ofNat {n : Nat} (h : n ≤ 99) : binToBcd n = some (BitVec.ofNat 8 (16 * (n / 10) + n % 10)) := by
  have number : (BitVec.ofNat 8 n).toNat = n := by rw [BitVec.toNat_ofNat]; omega
  simpa only [bcdByte, number] using binToBcd_eq (BitVec.ofNat 8 n) (number.trans_le h)

theorem exists_binToBcd_eq_some {n : Nat} (h : n ≤ 99) : ∃ b, binToBcd n = some b := ⟨_, binToBcd_eq_ofNat h⟩

theorem binToBcd_eq_none {n : Nat} (h : 99 < n) : binToBcd n = none := if_neg (by omega)

/-! ### The two functions as each other's inverse (R102) -/

/-- The value of `bin_to_bcd` has the tens digit over the units digit. -/
theorem binToBcd_eq_some_iff_digits (n : Nat) (b : Byte) :
    binToBcd n = some b ↔ n ≤ 99 ∧ b.toNat = 16 * (n / 10) + n % 10 := by
  by_cases h : n ≤ 99
  · rw [binToBcd_eq_ofNat h, Option.some_inj, ← BitVec.toNat_inj, BitVec.toNat_ofNat]
    omega
  · simp [binToBcd_eq_none (not_le.mp h), h]

/-- The value of `bin_to_bcd` at `n` is the valid byte whose number is `n`, and no other. -/
theorem binToBcd_eq_some_iff (n : Nat) (b : Byte) :
    binToBcd n = some b ↔ validBcd b = true ∧ (bcdToBin b).toNat = n := by
  rw [binToBcd_eq_some_iff_digits, validBcd_iff, bcdToBin_toNat]
  omega

/-- `bin_to_bcd (bcd_to_bin b)` is `b` on the valid bytes and on no other. -/
theorem binToBcd_bcdToBin_eq_self_iff (b : Byte) : binToBcd (bcdToBin b).toNat = some b ↔ validBcd b = true := by
  rw [binToBcd_eq_some_iff, and_iff_left rfl]

theorem binToBcd_map_bcdToBin {n : Nat} (h : n ≤ 99) : (binToBcd n).map bcdToBin = some (BitVec.ofNat 8 n) := by
  obtain ⟨b, value⟩ := exists_binToBcd_eq_some h
  obtain ⟨_, rfl⟩ := (binToBcd_eq_some_iff n b).mp value
  rw [value, Option.map_some, BitVec.ofNat_toNat, BitVec.setWidth_eq]

/-- On a byte that is not valid, the way back has no value or ends at another byte, which is valid. -/
theorem binToBcd_bcdToBin_of_not_validBcd {b : Byte} (invalid : ¬ validBcd b = true) :
    99 < (bcdToBin b).toNat ∨ ∃ c, binToBcd (bcdToBin b).toNat = some c ∧ c ≠ b ∧ validBcd c = true := by
  by_cases h : (bcdToBin b).toNat ≤ 99
  · obtain ⟨c, value⟩ := exists_binToBcd_eq_some h
    obtain ⟨valid, _⟩ := (binToBcd_eq_some_iff _ c).mp value
    exact .inr ⟨c, value, fun same => invalid (same ▸ valid), valid⟩
  · exact .inl (not_le.mp h)

theorem eq_of_binToBcd_eq {m n : Nat} (hm : m ≤ 99) (same : binToBcd m = binToBcd n) : m = n := by
  obtain ⟨b, value⟩ := exists_binToBcd_eq_some hm
  obtain ⟨_, numberM⟩ := (binToBcd_eq_some_iff m b).mp value
  obtain ⟨_, numberN⟩ := (binToBcd_eq_some_iff n b).mp (same ▸ value)
  exact numberM.symm.trans numberN

theorem eq_of_bcdToBin_eq {b c : Byte} (hb : validBcd b = true) (hc : validBcd c = true)
    (same : bcdToBin b = bcdToBin c) : b = c := by
  have wayBack := (binToBcd_bcdToBin_eq_self_iff b).mpr hb
  rw [same, (binToBcd_bcdToBin_eq_self_iff c).mpr hc] at wayBack
  exact (Option.some_inj.mp wayBack).symm

/-! ### The step of each command (R104, R105) -/

theorem exec_bin2bcd_of_some {n b : Byte} (h : binToBcd n.toNat = some b) (s : State) :
    exec (.bin2bcd n) s = .next (respondOk { Results.zero with r0 := b } s) := by
  rw [exec, execBin2bcd, bin2bcdStep, h]

theorem exec_bin2bcd_of_none {n : Byte} (h : binToBcd n.toNat = none) (s : State) :
    exec (.bin2bcd n) s = .next (raise .invalidField s) := by
  rw [exec, execBin2bcd, bin2bcdStep, h]

theorem exec_bcd2bin (b : Byte) (s : State) :
    exec (.bcd2bin b) s = .next (respondOk { Results.zero with r0 := bcdToBin b } s) := rfl

/-! ### The obligations -/

/-- Settles O19: each clause is read off `binToBcd_eq_some_iff`. -/
theorem bcdRoundTrip : Obligations.BcdRoundTrip := by
  simp only [Obligations.BcdRoundTrip, ← validBcd_iff_nibbles]
  exact ⟨fun _ => binToBcd_map_bcdToBin, binToBcd_bcdToBin_eq_self_iff, fun _ => binToBcd_bcdToBin_of_not_validBcd,
    fun _ _ hm _ => eq_of_binToBcd_eq hm, fun _ _ => eq_of_bcdToBin_eq⟩

/-- Settles O20: the formula of R101 with its bounds, from the nibbles as numbers. -/
theorem bcdToBinOnEveryByte : Obligations.BcdToBinOnEveryByte := by
  refine ⟨fun b => ⟨bcdToBin_toNat b, ?_⟩, fun b valid => ?_, fun b invalid => ?_, by decide⟩
  · have bound : b.toNat < 256 := b.isLt
    rw [bcdToBin_toNat]
    omega
  · obtain ⟨high, low⟩ := (validBcd_iff b).mp valid
    rw [bcdToBin_toNat]
    omega
  · have above : ¬ (b.toNat / 16 ≤ 9 ∧ b.toNat % 16 ≤ 9) := by
      rw [← validBcd_iff, invalid]
      exact Bool.false_ne_true
    rw [bcdToBin_toNat]
    omega

/-- Settles O21: `BIN2BCD` responds with the value of `bin_to_bcd`, and with `INVALID_FIELD` where it has none. -/
theorem bin2bcdResult : Obligations.Bin2bcdResult :=
  ⟨fun _ s h => exec_bin2bcd_of_some (binToBcd_eq_ofNat h) s,
    fun _ s h => exec_bin2bcd_of_none (binToBcd_eq_none h) s, by decide, by decide⟩

/-- Settles O22: `BCD2BIN` responds with the value of `bcd_to_bin`, which every byte has. -/
theorem bcd2binResult : Obligations.Bcd2binResult :=
  ⟨fun b s => by rw [exec_bcd2bin, bcdToBin_eq_ofNat]; rfl, by decide, by decide⟩

end Sys2Proof.Machine
end

section
/-! PROOFS. The RTC register codec (41_rtc.md R121 to R128): the byte an encoder gives is the BCD byte with the CH bit
clear, or with the format bits of `enc_hours` beside it, and decoding takes them apart again. -/

namespace Sys2Proof.Machine

/-! ### Seconds (R121 to R123) -/

theorem bcdByte_toNat {n : Byte} (h : n.toNat ≤ 99) : (bcdByte n).toNat = 16 * (n.toNat / 10) + n.toNat % 10 := by
  rw [bcdByte, BitVec.toNat_ofNat]
  omega

theorem bcdToBin_bcdByte {n : Byte} (h : n.toNat ≤ 99) : bcdToBin (bcdByte n) = n := by
  simpa [binToBcd_eq n h] using binToBcd_map_bcdToBin h

/-- Leaving CH out changes nothing where CH is 0. -/
theorem and_clearCh_of_lt {b : Byte} (h : b.toNat < 128) : b &&& 0x7F#8 = b :=
  BitVec.eq_of_toNat_eq (Nat.and_two_pow_sub_one_of_lt_two_pow (n := 7) h)

theorem decCh_of_lt {b : Byte} (h : b.toNat < 128) : decCh b = false := Nat.testBit_lt_two_pow h

theorem decSeconds_bcdByte {s : Byte} (h : s.toNat ≤ 59) : decSeconds (bcdByte s) = s := by
  have low : (bcdByte s).toNat < 128 := by rw [bcdByte_toNat (by omega)]; omega
  rw [decSeconds, and_clearCh_of_lt low, bcdToBin_bcdByte (by omega)]

theorem decCh_bcdByte {s : Byte} (h : s.toNat ≤ 59) : decCh (bcdByte s) = false :=
  decCh_of_lt (by rw [bcdByte_toNat (by omega)]; omega)

/-! ### Hours (R125, R127) -/

/-- The mask of `dec_hours` takes bits 6 and 5 out of a byte again that did not use them. -/
theorem or_and_clearFormat_of_lt {b m : Byte} (h : b.toNat < 32) (inMask : m &&& 0x9F#8 = 0#8) :
    (b ||| m) &&& 0x9F#8 = b := by
  have low : b &&& 0x1F#8 = b := BitVec.eq_of_toNat_eq (Nat.and_two_pow_sub_one_of_lt_two_pow (n := 5) h)
  calc (b ||| m) &&& 0x9F#8 = b &&& 0x1F#8 &&& 0x9F#8 := by
        rw [BitVec.and_or_distrib_right, inMask, BitVec.or_zero, low]
    _ = b := by rw [BitVec.and_assoc]; exact low

/-- `dec_hours` reads the format back from the bits `enc_hours` sets, on a byte that leaves them free. -/
theorem decHours_or_formatBits {b : Byte} {fmt : TimeFormat}
    (free : b.toNat < if fmt = .hour24 then 64 else 32) : decHours (b ||| formatBits fmt) = (bcdToBin b, fmt) := by
  cases fmt with
  | am =>
    have bit5 : b[5] = false := Nat.testBit_lt_two_pow free
    simp [decHours, formatBits, bit5, or_and_clearFormat_of_lt free]
  | pm => simp [decHours, formatBits, or_and_clearFormat_of_lt free]
  | hour24 =>
    have bit6 : b[6] = false := Nat.testBit_lt_two_pow free
    simp [decHours, formatBits, bit6]

theorem hoursLegal_le {h : Byte} {fmt : TimeFormat} (legal : hoursLegal h fmt = true) :
    h.toNat ≤ if fmt = .hour24 then 23 else 12 := by
  cases fmt <;> simp_all [hoursLegal]

theorem le_99_of_hoursLegal {h : Byte} {fmt : TimeFormat} (legal : hoursLegal h fmt = true) : h.toNat ≤ 99 := by
  have bound := hoursLegal_le legal
  split at bound <;> omega

theorem encHours_eq_or_formatBits {h : Byte} {fmt : TimeFormat} (legal : hoursLegal h fmt = true) :
    encHours h fmt = some (bcdByte h ||| formatBits fmt) := by
  rw [encHours, if_pos legal, binToBcd_eq h (le_99_of_hoursLegal legal), Option.map_some]

theorem encHours_map_decHours {h : Byte} {fmt : TimeFormat} (legal : hoursLegal h fmt = true) :
    (encHours h fmt).map decHours = some (h, fmt) := by
  have bound := hoursLegal_le legal
  have le99 := le_99_of_hoursLegal legal
  have free : (bcdByte h).toNat < if fmt = .hour24 then 64 else 32 := by
    rw [bcdByte_toNat le99]
    split_ifs at bound ⊢ <;> omega
  rw [encHours_eq_or_formatBits legal, Option.map_some, decHours_or_formatBits free, bcdToBin_bcdByte le99]

theorem decHours_hoursByte {h : Byte} {fmt : TimeFormat} (legal : hoursLegal h fmt = true) :
    decHours (hoursByte h fmt.code) = (h, fmt) := by
  simpa [encHours_eq h fmt legal] using encHours_map_decHours legal

/-! ### The obligation -/

/-- Settles O25: the bits an encoder sets beside the BCD byte are the ones its decoder reads apart. -/
theorem timeCodecRoundTrip : Obligations.TimeCodecRoundTrip := by
  refine ⟨fun _ _ => encHours_map_decHours, fun s h => ?_⟩
  rw [encSeconds_eq s h, Option.map_some, Option.map_some, decSeconds_bcdByte h, decCh_bcdByte h]
  exact ⟨rfl, rfl⟩

end Sys2Proof.Machine
end

section
/-! PROOFS. The RTC commands against the fixture `SimRTC` (20_memory.md R66): `MicroOp.onRtc` says what a register
transaction does to the chip and the scratch bytes, `AtOp.perform_onRtc` that the block's step does the same, and
`OnSim.steps_command` follows a command from the port to its response. -/

namespace Sys2Proof.Machine

/-! ### The chip under register transactions (R131, R132) -/

/-! What the chip answers to the three shapes of transaction it takes (R66). -/

theorem SimRtc.answer_write_reg (own : DevAddr) (reg : Byte) (c : SimRtc) :
    c.answer own (.write own [reg]) = (.ok 0#8, { c with ptr := reg }) := if_pos rfl

theorem SimRtc.answer_write_reg_byte (own : DevAddr) (reg v : Byte) (c : SimRtc) :
    c.answer own (.write own [reg, v]) = (.ok 0#8, { c.setReg reg v with ptr := reg + 1#8 }) := if_pos rfl

theorem SimRtc.answer_read_byte (own : DevAddr) (c : SimRtc) :
    c.answer own (.read own 1) = (.ok (c.regAt c.ptr), { c with ptr := c.ptr + 1#8 }) := if_pos rfl

/-- `scratch` with a byte read kept in it. -/
def Scratch.keep (dest : ReadDest) (b : Byte) (c : Scratch) : Scratch :=
  match dest with
  | .scratch0 => { c with b0 := b }
  | .scratch1 => { c with b1 := b }
  | .scratch2 => { c with b2 := b }
  | .scratch3 => { c with b3 := b }
  | .readBack => c

theorem keep_scratch (dest : ReadDest) (b : Byte) (s : State) : (s.keep dest b).scratch = s.scratch.keep dest b := by
  cases dest <;> rfl

/-- What the register transactions move: the chip, and the bytes read from it. -/
structure RtcData where
  chip : SimRtc
  scratch : Scratch

/-- What a register transaction does when `SimRTC` answers it; no value for any other micro-operation. -/
def MicroOp.onRtc : MicroOp → RtcData → Option RtcData
  | .busWrite [reg], d => some { d with chip := { d.chip with ptr := reg } }
  | .busWrite [reg, v], d => some { d with chip := { d.chip.setReg reg v with ptr := reg + 1#8 } }
  | .busRead dest, d =>
    some { chip := { d.chip with ptr := d.chip.ptr + 1#8 }, scratch := d.scratch.keep dest (d.chip.regAt d.chip.ptr) }
  | _, _ => none

/-- What a list of register transactions does, one after the other. -/
def opsOnRtc : List MicroOp → RtcData → Option RtcData
  | [], d => some d
  | op :: ops, d => (op.onRtc d).bind (opsOnRtc ops)

/-- The micro-operations that write the bytes named to the registers named. -/
def regWritesOps (writes : List (Byte × Byte)) : List MicroOp := writes.flatMap fun w => regWriteOps w.1 w.2

/-- After writes to distinct registers each of them holds the byte written to it, and no other has changed. -/
theorem opsOnRtc_regWritesOps (writes : List (Byte × Byte)) (distinct : (writes.map Prod.fst).Nodup) (d : RtcData)
    (wf : d.chip.wf = true) : ∃ chip, opsOnRtc (regWritesOps writes) d = some { d with chip := chip } ∧
      (∀ w ∈ writes, chip.regAt w.1 = w.2) ∧ ∀ x, x ∉ writes.map Prod.fst → chip.regAt x = d.chip.regAt x := by
  induction writes generalizing d with
  | nil => exact ⟨d.chip, rfl, by simp, by simp⟩
  | cons w writes ih =>
    rw [List.map_cons, List.nodup_cons] at distinct
    obtain ⟨fresh, distinct⟩ := distinct
    obtain ⟨chip, run, written, others⟩ := ih distinct
      { d with chip := { d.chip.setReg w.1 w.2 with ptr := w.1 + 1#8 } } (d.chip.setReg_wf _ _ wf)
    refine ⟨chip, run, ?_, fun x hx => ?_⟩
    · rw [List.forall_mem_cons]
      exact ⟨by rw [others _ fresh]; simp [SimRtc.regAt_setReg, wf], written⟩
    · rw [List.map_cons, List.mem_cons, not_or] at hx
      rw [others x hx.2]
      simp [SimRtc.regAt_setReg, wf, hx.1]

/-! ### Runs of steps -/

theorem exists_step_of_steps_succ {n : Nat} {s u : State} (h : steps (n + 1) s = .next u) :
    ∃ t, step s = .next t ∧ steps n t = .next u := by
  simp only [steps, Host.Core.run] at h
  split at h
  · exact ⟨_, ‹_›, h⟩
  · cases h
  · cases h

theorem steps_add {m : Nat} {s u : State} (n : Nat) (h : steps m s = .next u) : steps (m + n) s = steps n u := by
  induction m generalizing s with
  | zero => cases h; rw [Nat.zero_add]
  | succ m ih =>
    obtain ⟨t, first, others⟩ := exists_step_of_steps_succ h
    rw [Nat.add_right_comm, steps_succ _ first, ih others]

/-! ### A command run against `SimRTC` -/

section
variable (p : Params) (port : List Word40) (d : RtcData)

/-- The outside is quiet and the bus is `SimRTC`; the constants, the words that wait, the chip and the scratch bytes are
the ones named. -/
structure OnSim (s : State) : Prop where
  quiet : Quiet s
  params : s.params = p
  port : s.env.port = port
  bus : s.env.bus = .sim [] d.chip
  scratch : s.scratch = d.scratch

/-- The command `i` is in progress there, before its micro-operation `k`, and none of its transactions has failed. -/
structure AtOp (i : Instr) (k : Nat) (s : State) : Prop extends OnSim p port d s where
  busy : s.busy = true
  cmd : s.cmd = encode i
  seq : s.seq = k
  phase : s.phase = .fresh

/-- With the constants `p` the command `i` makes the micro-operations `ops`, then the completion `done`. -/
def RunsOps (i : Instr) (ops : List MicroOp) (done : State → State) : Prop :=
  ∀ s : State, s.params = p → s.phase ≠ .failed → exec i s = .next (runAt s.seq ops done s)
end

section
variable {p : Params} {port : List Word40} {d d' : RtcData} {s : State} {i : Instr} {k : Nat}
  {ops : List MicroOp} {done : State → State}

theorem OnSim.respondOk (h : OnSim p port d s) (r : Results) : OnSim p port d (respondOk r s) :=
  ⟨⟨h.quiet.acts, h.quiet.bus, h.quiet.delay⟩, h.params, h.port, h.bus, h.scratch⟩

/-- The step of an idle block accepts the command at its port (43_sequencer.md R201). -/
theorem OnSim.step_accept (h : OnSim p (encode i :: port) d s) (idle : s.busy = false) :
    ∃ u, step s = .next u ∧ AtOp p port d i 0 u := by
  refine ⟨accept (encode i) { s with env := { s.env with port := port } },
    by simp [step, h.quiet.acts, blockStep, idle, idleStep, h.port], ⟨⟨?_, ?_, ?_⟩, ?_, ?_, ?_, ?_⟩, ?_, ?_, ?_, ?_⟩
  all_goals simp [h.quiet.acts, h.quiet.bus, h.quiet.delay, h.params, h.bus, h.scratch]

/-- With nothing from outside in between, the step is the command's. -/
theorem AtOp.step_eq_exec (h : AtOp p port d i k s) : step s = exec i s := by
  simp [step, h.quiet.acts, blockStep, h.busy, commandStep, h.cmd]

/-- A transaction `SimRTC` answers with a byte: the byte is delivered, the chip moves, and the block goes on. -/
theorem OnSim.transact_eq (h : OnSim p port d s) {q : BusReq} {b : Byte} {chip : SimRtc}
    (answer : d.chip.answer s.params.devAddr q = (.ok b, chip)) (f : Byte → State → State) :
    transact q f s = (f b ((s.issue q.event).withEnv { s.env with bus := .sim [] chip })).advance := by
  have env : s.env.answer s.params.devAddr q = (.ok b, { s.env with bus := .sim [] chip }) := by
    simp [Env.answer, h.bus, answer]
  rw [transact_ok q s f b h.quiet.bus (by rw [env]), env]

/-- An answered transaction puts the block before the next micro-operation, with the chip as the answer left it. -/
theorem AtOp.advance (h : AtOp p port d i k s) (e : Event) (chip : SimRtc) :
    AtOp p port { d with chip := chip } i (k + 1)
      ((s.issue e).withEnv { s.env with bus := .sim [] chip }).advance :=
  ⟨⟨⟨h.quiet.acts, h.quiet.bus, h.quiet.delay⟩, by simp [h.params], h.port, rfl, by simp [h.scratch]⟩,
    by simp [h.busy], by simp [h.cmd], by simp [h.seq], rfl⟩

theorem AtOp.keep (h : AtOp p port d i k s) (dest : ReadDest) (b : Byte) :
    AtOp p port { d with scratch := d.scratch.keep dest b } i k (s.keep dest b) := by
  refine ⟨⟨⟨?_, ?_, ?_⟩, ?_, ?_, ?_, ?_⟩, ?_, ?_, ?_, ?_⟩
  all_goals simp [h.quiet.acts, h.quiet.bus, h.quiet.delay, h.params, h.port, h.bus, h.scratch, keep_scratch, h.busy,
    h.cmd, h.seq, h.phase]

theorem keep_advance (s : State) (dest : ReadDest) (b : Byte) : (s.keep dest b).advance = s.advance.keep dest b := by
  cases dest <;> rfl

/-- A register transaction does to the chip and the scratch bytes what `MicroOp.onRtc` says. -/
theorem AtOp.perform_onRtc (h : AtOp p port d i k s) {op : MicroOp} (run : op.onRtc d = some d') :
    AtOp p port d' i (k + 1) (perform op s) := by
  unfold MicroOp.onRtc at run
  split at run <;> cases run
  case h_1 =>
    rw [perform, h.transact_eq (SimRtc.answer_write_reg ..)]
    exact h.advance _ _
  case h_2 =>
    rw [perform, h.transact_eq (SimRtc.answer_write_reg_byte ..)]
    exact h.advance _ _
  case h_3 =>
    rw [perform, h.transact_eq (SimRtc.answer_read_byte ..), keep_advance]
    exact (h.advance _ _).keep _ _

/-- The micro-operations that are left of a command, one step each. -/
theorem AtOp.steps_ops (runs : RunsOps p i ops done) (todo : List MicroOp) (h : AtOp p port d i k s)
    (left : ops.drop k = todo) (run : opsOnRtc todo d = some d') :
    ∃ u, steps todo.length s = .next u ∧ AtOp p port d' i (k + todo.length) u := by
  induction todo generalizing k d s with
  | nil => cases run; exact ⟨s, rfl, h⟩
  | cons op todo ih =>
    obtain ⟨d₁, opRun, todoRun⟩ := Option.bind_eq_some_iff.mp run
    have here : ops[k]? = some op := by simpa [left] using (List.getElem?_drop (xs := ops) (i := k) (j := 0)).symm
    have next : step s = .next (perform op s) := by
      rw [h.step_eq_exec, runs s h.params (by simp [h.phase]), h.seq, runAt_op k ops done s op here]
    have rest : ops.drop (k + 1) = todo := by rw [← List.tail_drop, left, List.tail_cons]
    obtain ⟨u, others, atEnd⟩ := ih (h.perform_onRtc opRun) rest todoRun
    refine ⟨u, (steps_succ _ next).trans others, ?_⟩
    rw [List.length_cons, Nat.add_comm todo.length, ← Nat.add_assoc]
    exact atEnd

/-- A command presented to an idle block is accepted, makes its register transactions and completes (R207). -/
theorem OnSim.steps_command (runs : RunsOps p i ops done) (h : OnSim p (encode i :: port) d s) (idle : s.busy = false)
    (run : opsOnRtc ops d = some d') :
    ∃ u, steps (ops.length + 2) s = .next (done u) ∧ OnSim p port d' u := by
  obtain ⟨t, accepted, atFirst⟩ := h.step_accept idle
  obtain ⟨u, performed, atLast⟩ := atFirst.steps_ops runs ops List.drop_zero run
  have completed : step u = .next (done u) := by
    rw [atLast.step_eq_exec, runs u atLast.params (by simp [atLast.phase]), atLast.seq, runAt_done _ _ _ _ (by omega)]
  refine ⟨u, ?_, atLast.toOnSim⟩
  rw [show ops.length + 2 = ops.length + 1 + 1 from rfl, steps_succ _ accepted, steps_add 1 performed,
    steps_succ 0 completed, steps_zero]

/-- A command that writes to distinct registers and responds `OK`, then one that responds `r` whenever it reads the
chip with those registers written. -/
theorem OnSim.steps_set_get {set get : Instr} {writes : List (Byte × Byte)} {r : Results}
    (h : OnSim p [encode set, encode get] d s) (idle : s.busy = false) (wf : d.chip.wf = true)
    (distinct : (writes.map Prod.fst).Nodup)
    (setRuns : RunsOps p set (regWritesOps writes) (Machine.respondOk Results.zero)) (getRuns : RunsOps p get ops done)
    (reads : ∀ d₁ : RtcData, (∀ w ∈ writes, d₁.chip.regAt w.1 = w.2) → ∃ d₂, opsOnRtc ops d₁ = some d₂ ∧
      ∀ u : State, u.scratch = d₂.scratch → done u = Machine.respondOk r u) :
    ∃ u t : State, steps ((regWritesOps writes).length + 2) s = .next u ∧
      u.busy = false ∧ u.rsp.valid = true ∧ u.rsp.status = .ok ∧
      steps ((regWritesOps writes).length + 2 + (ops.length + 2)) s = .next t ∧ t.busy = false ∧
      t.rsp = { valid := true, status := .ok, results := some r } := by
  obtain ⟨chip, setData, written, -⟩ := opsOnRtc_regWritesOps writes distinct d wf
  obtain ⟨d₂, getData, completes⟩ := reads { d with chip := chip } written
  obtain ⟨u, setSteps, hu⟩ := h.steps_command setRuns idle setData
  obtain ⟨t, getSteps, ht⟩ := (hu.respondOk Results.zero).steps_command getRuns rfl getData
  rw [completes t ht.scratch] at getSteps
  exact ⟨_, _, setSteps, rfl, rfl, rfl, (steps_add _ setSteps).trans getSteps, rfl, rfl⟩

end

/-! ### The four commands as lists of register transactions (R134, R136, R137, R139) -/

section
variable {p : Params}

/-- The registers `RTC_SET_TIME` writes and the bytes it writes to them (R134). -/
def timeWrites (p : Params) (sec min hr fmt : Byte) : List (Byte × Byte) :=
  [(p.regSeconds, bcdByte sec), (p.regMinutes, bcdByte min), (p.regHours, hoursByte hr fmt)]

/-- The registers `RTC_SET_DATE` writes and the bytes it writes to them (R137). -/
def dateWrites (p : Params) (d mo y w : Byte) : List (Byte × Byte) :=
  [(p.regDate, bcdByte d), (p.regMonth, bcdByte mo), (p.regYear, bcdByte y), (p.regWeekday, bcdByte w)]

theorem runsOps_rtcSetTime {sec min hr fmt : Byte} (valid : validTime sec min hr fmt = true) :
    RunsOps p (.rtcSetTime sec min hr fmt) (regWritesOps (timeWrites p sec min hr fmt)) (respondOk Results.zero) := by
  rintro s rfl going
  rw [exec, execRtcSetTime, setTimeOps_valid _ _ _ _ _ valid]
  exact congrArg _ (runBus_runs _ _ s going)

theorem runsOps_rtcSetDate {d mo y w : Byte} (valid : validDate d mo y w = true) :
    RunsOps p (.rtcSetDate d mo y w) (regWritesOps (dateWrites p d mo y w)) (respondOk Results.zero) := by
  rintro s rfl going
  rw [exec, execRtcSetDate, setDateOps_valid _ _ _ _ _ valid]
  exact congrArg _ (runBus_runs _ _ s going)

theorem runsOps_rtcGetTime : RunsOps p .rtcGetTime (getTimeOps p) getTimeDone := by
  rintro s rfl going
  exact congrArg _ (runBus_runs _ _ s going)

theorem runsOps_rtcGetDate : RunsOps p .rtcGetDate (getDateOps p) getDateDone := by
  rintro s rfl going
  exact congrArg _ (runBus_runs _ _ s going)

theorem opsOnRtc_getTimeOps (d : RtcData) : ∃ ptr, opsOnRtc (getTimeOps p) d = some
    { chip := { d.chip with ptr := ptr },
      scratch := { d.scratch with
        b0 := d.chip.regAt p.regSeconds, b1 := d.chip.regAt p.regMinutes, b2 := d.chip.regAt p.regHours } } :=
  ⟨_, rfl⟩

theorem opsOnRtc_getDateOps (d : RtcData) : ∃ ptr, opsOnRtc (getDateOps p) d = some
    { chip := { d.chip with ptr := ptr },
      scratch := { b0 := d.chip.regAt p.regDate, b1 := d.chip.regAt p.regMonth, b2 := d.chip.regAt p.regYear,
                   b3 := d.chip.regAt p.regWeekday } } :=
  ⟨_, rfl⟩

theorem timeWrites_distinct (wf : p.wf) (sec min hr fmt : Byte) :
    ((timeWrites p sec min hr fmt).map Prod.fst).Nodup := by
  simp_all [timeWrites, Params.wf, Params.regs]

theorem dateWrites_distinct (wf : p.wf) (d mo y w : Byte) : ((dateWrites p d mo y w).map Prod.fst).Nodup := by
  simp_all [dateWrites, Params.wf, Params.regs, eq_comm]

/-- `RTC_GET_TIME` decodes the bytes `RTC_SET_TIME` has written to its operands. -/
theorem getTimeResults_of_valid {sec min hr fmt : Byte} (valid : validTime sec min hr fmt = true) :
    getTimeResults (bcdByte sec) (bcdByte min) (hoursByte hr fmt) = ⟨fmt, hr, min, sec⟩ := by
  simp only [validTime, Bool.and_eq_true, decide_eq_true_eq] at valid
  obtain ⟨⟨secLe, minLe⟩, legal⟩ := valid
  cases spelled : TimeFormat.ofByte fmt with
  | none => simp [spelled] at legal
  | some f =>
    rw [spelled] at legal
    rw [TimeFormat.ofByte_code spelled, getTimeResults, decHours_hoursByte legal, bcdToBin_bcdByte (by omega),
      decSeconds_bcdByte secLe]

/-- `RTC_GET_DATE` decodes the bytes `RTC_SET_DATE` has written to its operands. -/
theorem getDateResults_of_valid {d mo y w : Byte} (valid : validDate d mo y w = true) :
    getDateResults (bcdByte d) (bcdByte mo) (bcdByte y) (bcdByte w) = ⟨w, y, mo, d⟩ := by
  simp only [validDate, Bool.and_eq_true, decide_eq_true_eq] at valid
  rw [getDateResults, bcdToBin_bcdByte (by omega), bcdToBin_bcdByte (by omega), bcdToBin_bcdByte (by omega),
    bcdToBin_bcdByte (by omega)]

theorem getTime_reads_timeWrites {sec min hr fmt : Byte} (valid : validTime sec min hr fmt = true) (d : RtcData)
    (written : ∀ w ∈ timeWrites p sec min hr fmt, d.chip.regAt w.1 = w.2) :
    ∃ d₂, opsOnRtc (getTimeOps p) d = some d₂ ∧
      ∀ u : State, u.scratch = d₂.scratch → getTimeDone u = respondOk ⟨fmt, hr, min, sec⟩ u := by
  obtain ⟨ptr, run⟩ := opsOnRtc_getTimeOps (p := p) d
  obtain ⟨secReg, minReg, hrReg⟩ : d.chip.regAt p.regSeconds = bcdByte sec ∧
      d.chip.regAt p.regMinutes = bcdByte min ∧ d.chip.regAt p.regHours = hoursByte hr fmt := by
    simpa [timeWrites] using written
  refine ⟨_, run, fun u read => ?_⟩
  rw [getTimeDone, read, secReg, minReg, hrReg, getTimeResults_of_valid valid]

theorem getDate_reads_dateWrites {day mo y w : Byte} (valid : validDate day mo y w = true) (d : RtcData)
    (written : ∀ r ∈ dateWrites p day mo y w, d.chip.regAt r.1 = r.2) :
    ∃ d₂, opsOnRtc (getDateOps p) d = some d₂ ∧
      ∀ u : State, u.scratch = d₂.scratch → getDateDone u = respondOk ⟨w, y, mo, day⟩ u := by
  obtain ⟨ptr, run⟩ := opsOnRtc_getDateOps (p := p) d
  obtain ⟨dayReg, moReg, yReg, wReg⟩ : d.chip.regAt p.regDate = bcdByte day ∧
      d.chip.regAt p.regMonth = bcdByte mo ∧ d.chip.regAt p.regYear = bcdByte y ∧
      d.chip.regAt p.regWeekday = bcdByte w := by
    simpa [dateWrites] using written
  refine ⟨_, run, fun u read => ?_⟩
  rw [getDateDone, read, dayReg, moReg, yReg, wReg, getDateResults_of_valid valid]
end

/-! ### The obligation -/

/-- Settles O35: the set command leaves its operands encoded in its registers, and the get command decodes them. -/
theorem setThenGetReturnsOperands : Obligations.SetThenGetReturnsOperands := by
  constructor
  · intro s chip sec min hr fmt quiet idle distinct wf bus valid port
    have atPort : OnSim s.params _ ⟨chip, s.scratch⟩ s := ⟨quiet, rfl, port, bus, rfl⟩
    exact atPort.steps_set_get idle wf (timeWrites_distinct distinct ..) (runsOps_rtcSetTime valid) runsOps_rtcGetTime
      (getTime_reads_timeWrites valid)
  · intro s chip d mo y w quiet idle distinct wf bus valid port
    have atPort : OnSim s.params _ ⟨chip, s.scratch⟩ s := ⟨quiet, rfl, port, bus, rfl⟩
    exact atPort.steps_set_get idle wf (dateWrites_distinct distinct ..) (runsOps_rtcSetDate valid) runsOps_rtcGetDate
      (getDate_reads_dateWrites valid)

end Sys2Proof.Machine
end

section
/-! PROOFS. The statuses a command can complete with (60_exceptions.md R238): `exec_inRow`, that a completing step
reports a status of the command's row, one lemma per shared operation; and for each status the states from which a
step completes with it. -/

namespace Sys2Proof.Machine

/-! ### No status outside the row -/

/-- If the command `i` is complete in `t`, its status is one of `i`'s row in the matrix. -/
def InRow (i : Instr) (t : State) : Prop := t.busy = false → i.mayReport t.rsp.status = true

section
variable {i : Instr} {s t : State} {ops : List MicroOp} {done body : State → State}

theorem inRow_respondOk (r : Results) (s : State) : InRow i (respondOk r s) := fun _ => rfl

theorem inRow_raise {st : Status} (marked : i.mayReport st = true) (s : State) : InRow i (raise st s) := fun _ => marked

/-- A micro-operation completes no command. -/
theorem inRow_perform (busy : s.busy = true) (op : MicroOp) : InRow i (perform op s) := by
  obtain ⟨busyKept, -⟩ := perform_cases op s
  intro idle
  simp [busyKept, busy] at idle

theorem inRow_runAt (busy : s.busy = true) (atEnd : InRow i (done s)) (k : Nat) (ops : List MicroOp) :
    InRow i (runAt k ops done s) := by
  obtain ⟨op, -, -, e⟩ | ⟨-, e⟩ := runAt_cases k ops done s <;> rw [e]
  · exact inRow_perform busy op
  · exact atEnd

theorem inRow_runBus (busy : s.busy = true) (rtc : i.isRtc = true) (atEnd : InRow i (done s)) (ops : List MicroOp) :
    InRow i (runBus ops done s) := by
  by_cases failed : s.phase = .failed
  · rw [runBus_failed ops done s failed]
    exact inRow_raise (st := .busError) rtc s
  · rw [runBus_runs ops done s failed]
    exact inRow_runAt busy atEnd _ _

theorem inRow_setStep (busy : s.busy = true) (rtc : i.isRtc = true) (checks : i.checksFields = true)
    (ops : Option (List MicroOp)) : InRow i (setStep ops s) := by
  cases ops with
  | some l => exact inRow_runBus busy rtc (inRow_respondOk _ s) l
  | none => exact inRow_raise (st := .invalidField) checks s

theorem inRow_ifReady (needs : i.needsReady = true) (inBody : InRow i (body s)) : InRow i (ifReady body s) := by
  unfold ifReady
  split
  · exact inBody
  · exact inRow_raise (st := .notReady) needs s

theorem inRow_lcdSend (busy : s.busy = true) (needs : i.needsReady = true) (ops : List MicroOp) :
    InRow i (lcdSend ops s) :=
  inRow_ifReady needs (inRow_runAt busy (inRow_respondOk _ s) _ ops)

theorem inRow_lcdStrStep (busy : s.busy = true) (a : StrAddr) : InRow i (lcdStrStep a s) := by
  unfold lcdStrStep
  split
  · exact inRow_perform (s := { s with strPtr := nextStrPtr a s }) busy _
  · split
    · exact inRow_respondOk _ s
    · exact inRow_runAt busy (inRow_respondOk _ s) _ _

/-- A step that ends a command reports a status of the command's row. -/
theorem exec_inRow (busy : s.busy = true) (h : exec i s = .next t) : InRow i t := by
  cases i <;> cases h
  case bin2bcd n =>
    unfold bin2bcdStep
    split
    · exact inRow_respondOk _ s
    · exact inRow_raise rfl s
  case bcd2bin => exact inRow_respondOk _ s
  case rtcInit => exact inRow_runBus busy rfl (inRow_respondOk _ s) _
  case rtcSetTime => exact inRow_setStep busy rfl rfl _
  case rtcGetTime => exact inRow_runBus busy rfl (inRow_respondOk _ s) _
  case rtcSetDate => exact inRow_setStep busy rfl rfl _
  case rtcGetDate => exact inRow_runBus busy rfl (inRow_respondOk _ s) _
  case lcdInit => exact inRow_runAt (done := lcdInitDone) (s := s.setLcd .initializing) busy (inRow_respondOk _ _) _ _
  case lcdCmd => exact inRow_lcdSend busy rfl _
  case lcdChar => exact inRow_lcdSend busy rfl _
  case lcdStr a => exact inRow_ifReady rfl (inRow_lcdStrStep busy a)
  case lcdHome => exact inRow_lcdSend busy rfl _
  case lcdClear => exact inRow_lcdSend busy rfl _
  case lcdCursor => exact inRow_lcdSend busy rfl _

/-! ### The states from which a step completes with an error (R221, R222, R224) -/

/-- After a failed transaction an RTC command completes with `BUS_ERROR`. -/
theorem exec_of_failed (rtc : i.isRtc = true) (legal : i.operandsLegal = true) (failed : s.phase = .failed) :
    exec i s = .next (raise .busError s) := by
  have aborts : ∀ ops done, runBus ops done s = raise .busError s := fun ops done => runBus_failed ops done s failed
  cases i <;> cases rtc
  case rtcSetTime =>
    rw [exec, execRtcSetTime, setTimeOps_valid _ _ _ _ _ legal]
    exact congrArg _ (aborts _ _)
  case rtcSetDate =>
    rw [exec, execRtcSetDate, setDateOps_valid _ _ _ _ _ legal]
    exact congrArg _ (aborts _ _)
  all_goals exact congrArg _ (aborts _ _)

theorem setTimeOps_eq_none {sec min hr fmt : Byte} (invalid : validTime sec min hr fmt = false) (p : Params) :
    setTimeOps p sec min hr fmt = none := if_neg (by simp [invalid])

theorem setDateOps_eq_none {d mo y w : Byte} (invalid : validDate d mo y w = false) (p : Params) :
    setDateOps p d mo y w = none := if_neg (by simp [invalid])

/-- An operand out of range: the command completes with `INVALID_FIELD`, wherever the sequencer is. -/
theorem exec_of_not_operandsLegal (illegal : i.operandsLegal = false) (s : State) :
    exec i s = .next (raise .invalidField s) := by
  cases i
  case bin2bcd n =>
    have above : 99 < n.toNat := by simpa [Instr.operandsLegal] using illegal
    exact exec_bin2bcd_of_none (binToBcd_eq_none above) s
  case rtcSetTime => rw [exec, execRtcSetTime, setTimeOps_eq_none illegal, setStep]
  case rtcSetDate => rw [exec, execRtcSetDate, setDateOps_eq_none illegal, setStep]
  all_goals cases illegal

/-- Not in `Ready`, the six commands under the ready check complete with `NOT_READY`. -/
theorem exec_of_not_ready (needs : i.needsReady = true) (notReady : s.lcdState ≠ .ready) :
    exec i s = .next (raise .notReady s) := by
  cases i <;> cases needs
  all_goals exact congrArg _ (if_neg notReady)

/-! ### The states from which a step completes with `OK` -/

theorem lcdSend_done (ready : s.lcdState = .ready) (past : ops.length ≤ s.seq) :
    lcdSend ops s = respondOk Results.zero s := by
  rw [lcdSend, ifReady, if_pos ready]
  exact runAt_done _ _ _ _ past

theorem cursorOps_length_le (p : Params) (row column : Byte) : (cursorOps p row column).length ≤ 18 := by
  unfold cursorOps
  split
  · exact (sendByteOps_length ..).le
  · exact Nat.zero_le 18

variable (s) in
/-- Nothing is left of the command in progress but its response, whichever command it is: no transaction has failed,
the LCD part is in `Ready`, the position is past the longest list, that of `LCD_INIT`, and in the loop of `LCD_STR`
it is the one after the `MemRead` of a zero byte. -/
structure AtCompletion : Prop where
  phase : s.phase ≠ .failed
  ready : s.lcdState = .ready
  past : 122 ≤ s.seq
  inLoop : s.seq % strPeriod = 1
  held : s.held = 0x00#8

theorem exec_of_atCompletion (h : AtCompletion s) (legal : i.operandsLegal = true) :
    ∃ r u, exec i s = .next (respondOk r u) := by
  have past := h.past
  have bus : ∀ ops done, ops.length ≤ 122 → runBus ops done s = done s := fun ops done short => by
    rw [runBus_runs ops done s h.phase, runAt_done _ _ _ _ (short.trans past)]
  have send : ∀ ops : List MicroOp, ops.length ≤ 122 → lcdSend ops s = respondOk Results.zero s := fun ops short =>
    lcdSend_done h.ready (short.trans past)
  cases i
  case bin2bcd n =>
    have bound : n.toNat ≤ 99 := by simpa [Instr.operandsLegal] using legal
    exact ⟨_, _, exec_bin2bcd_of_some (binToBcd_eq n bound) s⟩
  case bcd2bin b => exact ⟨_, _, exec_bcd2bin b s⟩
  case rtcInit => exact ⟨_, _, congrArg _ (bus _ _ (by simp [rtcInitOps, regWriteOps, regReadOps]))⟩
  case rtcSetTime =>
    rw [exec, execRtcSetTime, setTimeOps_valid _ _ _ _ _ legal]
    exact ⟨_, _, congrArg _ (bus _ _ (by simp))⟩
  case rtcGetTime => exact ⟨_, _, congrArg _ (bus _ _ (by simp [getTimeOps, regReadOps]))⟩
  case rtcSetDate =>
    rw [exec, execRtcSetDate, setDateOps_valid _ _ _ _ _ legal]
    exact ⟨_, _, congrArg _ (bus _ _ (by simp))⟩
  case rtcGetDate => exact ⟨_, _, congrArg _ (bus _ _ (by simp [getDateOps, regReadOps]))⟩
  case lcdInit =>
    exact ⟨_, _, congrArg _ (runAt_done s.seq (lcdInitOps s.params) lcdInitDone (s.setLcd .initializing) past)⟩
  case lcdCmd => exact ⟨_, _, congrArg _ (send _ (by simp [sendByteOps_length]))⟩
  case lcdChar => exact ⟨_, _, congrArg _ (send _ (by simp [sendByteOps_length]))⟩
  case lcdStr a =>
    have step : lcdStrStep a s = respondOk Results.zero s := by simp [lcdStrStep, h.inLoop, h.held]
    exact ⟨_, _, congrArg _ ((if_pos h.ready).trans step)⟩
  case lcdHome => exact ⟨_, _, congrArg _ (send _ (by simp [sendByteOps_length]))⟩
  case lcdClear => exact ⟨_, _, congrArg _ (send _ (by simp [sendByteOps_length]))⟩
  case lcdCursor => exact ⟨_, _, congrArg _ (send _ ((cursorOps_length_le ..).trans (by decide)))⟩

end

/-! ### Every marked cell -/

/-- Every command of the table has operands in range. -/
theorem exists_operandsLegal (i : Instr) :
    ∃ j : Instr, j.mnemonic = i.mnemonic ∧ j.isRtc = i.isRtc ∧ j.operandsLegal = true := by
  cases i
  case bin2bcd => exact ⟨.bin2bcd 0#8, rfl, rfl, by decide⟩
  case rtcSetTime => exact ⟨.rtcSetTime 0#8 0#8 0#8 2#8, rfl, rfl, by decide⟩
  case rtcSetDate => exact ⟨.rtcSetDate 1#8 1#8 0#8 1#8, rfl, rfl, by decide⟩
  all_goals exact ⟨_, rfl, rfl, rfl⟩

/-- Each of the three commands that check a field has operands out of range. -/
theorem exists_not_operandsLegal {i : Instr} (checks : i.checksFields = true) :
    ∃ j : Instr, j.mnemonic = i.mnemonic ∧ j.operandsLegal = false := by
  cases i <;> cases checks
  case bin2bcd => exact ⟨.bin2bcd 100#8, rfl, by decide⟩
  case rtcSetTime => exact ⟨.rtcSetTime 60#8 0#8 0#8 2#8, rfl, by decide⟩
  case rtcSetDate => exact ⟨.rtcSetDate 0#8 1#8 0#8 1#8, rfl, by decide⟩

/-- A busy block with nothing left of its command but the response. Position 134 is 1 past a multiple of 19, the period
of `LCD_STR`, and past the 122 of `LCD_INIT`. -/
def completing : State := { State.reset with busy := true, lcdState := .ready, seq := 134 }

theorem atCompletion_completing : AtCompletion completing := ⟨by decide, rfl, by decide, rfl, rfl⟩

/-- For every marked cell there are operands and a busy state from which the step completes with that status. -/
theorem exists_completion_of_mayReport {i : Instr} {st : Status} (marked : i.mayReport st = true) :
    ∃ (j : Instr) (s t : State), j.mnemonic = i.mnemonic ∧ s.busy = true ∧ exec j s = .next t ∧ t.busy = false ∧
      t.rsp.valid = true ∧ t.rsp.status = st := by
  obtain ⟨j, name, sameRtc, legal⟩ := exists_operandsLegal i
  cases st
  case ok =>
    obtain ⟨r, u, run⟩ := exec_of_atCompletion atCompletion_completing legal
    exact ⟨j, completing, _, name, rfl, run, rfl, rfl, rfl⟩
  case busError =>
    have run := exec_of_failed (s := { completing with phase := .failed }) (sameRtc.trans marked) legal rfl
    exact ⟨j, _, _, name, rfl, run, rfl, rfl, rfl⟩
  case invalidField =>
    obtain ⟨k, name, illegal⟩ := exists_not_operandsLegal marked
    exact ⟨k, completing, _, name, rfl, exec_of_not_operandsLegal illegal _, rfl, rfl, rfl⟩
  case unimplemented => cases marked
  case notReady =>
    have run := exec_of_not_ready (s := { completing with lcdState := .uninitialized }) marked (by decide)
    exact ⟨i, _, _, rfl, rfl, run, rfl, rfl, rfl⟩

theorem commandStep_of_reserved {s : State} {op : Byte} (h : decode s.cmd = .reserved op) :
    commandStep s = .next (raise .unimplemented s) := by rw [commandStep, h]

/-! ### The obligation -/

/-- Settles O48: each shared operation completes a command only with statuses of its row, and the state before the
completion shows each marked cell. -/
theorem statusMatrix : Obligations.StatusMatrix :=
  ⟨fun _ _ _ busy h => exec_inRow busy h, fun _ _ => exists_completion_of_mayReport,
    fun _ _ reserved => ⟨_, commandStep_of_reserved reserved, rfl, rfl⟩⟩

end Sys2Proof.Machine
end

section
/-! PROOFS. One step of any command in one form (43_sequencer.md R203 to R207): a check that stops it, or, where none
does (`Going`), the micro-operation `Instr.opAt` or the completion `Instr.finish`. `exec_next_cases` takes a step of a
command apart. -/

namespace Sys2Proof

/-! ### The form of a step -/

section
open Machine

/-- The micro-operations of a command, in order. None are listed for `LCD_STR`, whose loop has no bound, and none for a
set command with an operand out of range. -/
def Instr.ops (p : Params) : Instr → List MicroOp
  | .bin2bcd _ => []
  | .bcd2bin _ => []
  | .rtcInit => rtcInitOps p
  | .rtcSetTime s m h f => (setTimeOps p s m h f).getD []
  | .rtcGetTime => getTimeOps p
  | .rtcSetDate d m y w => (setDateOps p d m y w).getD []
  | .rtcGetDate => getDateOps p
  | .lcdInit => lcdInitOps p
  | .lcdCmd b => sendByteOps p false b
  | .lcdChar b => sendByteOps p true b
  | .lcdStr _ => []
  | .lcdHome => sendByteOps p false p.cmdReturnHome ++ [.delayMs p.tSettleMs]
  | .lcdClear => sendByteOps p false p.cmdClear ++ [.delayMs p.tSettleMs]
  | .lcdCursor row column => cursorOps p row column

/-- The micro-operation of `LCD_STR` at the sequencer's position in its loop; none where the byte read is zero. -/
def strOpAt (a : StrAddr) (s : State) : Option MicroOp :=
  match s.seq % strPeriod with
  | 0 => some (.memRead (nextStrPtr a s))
  | k + 1 => if s.held = 0x00#8 then none else (sendByteOps s.params true s.held)[k]?

/-- The micro-operation of a command at the sequencer's position; none where the command is complete. -/
def Instr.opAt (i : Instr) (s : State) : Option MicroOp :=
  match i with
  | .lcdStr a => strOpAt a s
  | i => (i.ops s.params)[s.seq]?

/-- What a command writes in the step of a micro-operation besides: `LCD_INIT` its `lcd_state`, and `LCD_STR` the
address of a `MemRead`. -/
def Instr.enter (i : Instr) (s : State) : State :=
  match i with
  | .lcdInit => s.setLcd .initializing
  | .lcdStr a => if s.seq % strPeriod = 0 then { s with strPtr := nextStrPtr a s } else s
  | _ => s

/-- The result bytes of a command that completes with `OK`. -/
def Instr.results (i : Instr) (s : State) : Results :=
  match i with
  | .bin2bcd n => { Results.zero with r0 := bcdByte n }
  | .bcd2bin b => { Results.zero with r0 := bcdToBin b }
  | .rtcInit => { Results.zero with r0 := clockHaltedByte s.readBack }
  | .rtcGetTime => getTimeResults s.scratch.b0 s.scratch.b1 s.scratch.b2
  | .rtcGetDate => getDateResults s.scratch.b0 s.scratch.b1 s.scratch.b2 s.scratch.b3
  | _ => Results.zero

/-- The step that completes a command with `OK`. -/
def Instr.finish (i : Instr) (s : State) : State :=
  respondOk (i.results s) (if i = .lcdInit then s.setLcd .ready else s)

/-- The step of a command that no check stops. -/
def Instr.goOn (i : Instr) (s : State) : State :=
  match i.opAt s with
  | some op => perform op (i.enter s)
  | none => i.finish s

end

end Sys2Proof

namespace Sys2Proof.Machine

section
variable {i : Instr} {s t : State}

theorem opAt_eq_getElem? (notStr : ∀ a, i ≠ .lcdStr a) (s : State) : i.opAt s = (i.ops s.params)[s.seq]? := by
  cases i
  case lcdStr a => exact absurd rfl (notStr a)
  all_goals rfl

theorem goOn_of_opAt {op : MicroOp} (h : i.opAt s = some op) : i.goOn s = perform op (i.enter s) := by
  rw [Instr.goOn, h]

theorem goOn_of_opAt_none (h : i.opAt s = none) : i.goOn s = i.finish s := by rw [Instr.goOn, h]

theorem enter_eq_self (notInit : i ≠ .lcdInit) (notStr : ∀ a, i ≠ .lcdStr a) (s : State) : i.enter s = s := by
  cases i
  case lcdInit => exact absurd rfl notInit
  case lcdStr a => exact absurd rfl (notStr a)
  all_goals rfl

theorem opAt_lcdStr_head (a : StrAddr) (h : s.seq % strPeriod = 0) :
    (Instr.lcdStr a).opAt s = some (.memRead (nextStrPtr a s)) := by
  rw [Instr.opAt, strOpAt, h]

theorem opAt_lcdStr_past (a : StrAddr) {k : Nat} (h : s.seq % strPeriod = k + 1) :
    (Instr.lcdStr a).opAt s = if s.held = 0x00#8 then none else (sendByteOps s.params true s.held)[k]? := by
  rw [Instr.opAt, strOpAt, h]

variable (i s) in
/-- No check stops the step of the command `i`: its operands are in range, the LCD part is ready where it must be, and
no transaction of it has failed. -/
structure Going : Prop where
  legal : i.operandsLegal = true
  ready : i.needsReady = true → s.lcdState = .ready
  unfailed : i.isRtc = true → s.phase ≠ .failed

theorem setTimeOps_eq_some_ops {p : Params} {sec min hr fmt : Byte} (valid : validTime sec min hr fmt = true) :
    setTimeOps p sec min hr fmt = some ((Instr.rtcSetTime sec min hr fmt).ops p) := by
  simp [Instr.ops, setTimeOps_valid _ _ _ _ _ valid]

theorem setDateOps_eq_some_ops {p : Params} {d mo y w : Byte} (valid : validDate d mo y w = true) :
    setDateOps p d mo y w = some ((Instr.rtcSetDate d mo y w).ops p) := by
  simp [Instr.ops, setDateOps_valid _ _ _ _ _ valid]

theorem ops_rtcSetTime {p : Params} {sec min hr fmt : Byte} (valid : validTime sec min hr fmt = true) :
    (Instr.rtcSetTime sec min hr fmt).ops p = regWritesOps (timeWrites p sec min hr fmt) :=
  congrArg (Option.getD · []) (setTimeOps_valid _ _ _ _ _ valid)

theorem ops_rtcSetDate {p : Params} {d mo y w : Byte} (valid : validDate d mo y w = true) :
    (Instr.rtcSetDate d mo y w).ops p = regWritesOps (dateWrites p d mo y w) :=
  congrArg (Option.getD · []) (setDateOps_valid _ _ _ _ _ valid)

/-- What a command writes in the step of a micro-operation besides, case by case. -/
theorem enter_cases (i : Instr) (s : State) :
    i.enter s = s ∨ (i = .lcdInit ∧ i.enter s = s.setLcd .initializing) ∨
    ∃ a, i = .lcdStr a ∧ s.seq % strPeriod = 0 ∧ i.enter s = { s with strPtr := nextStrPtr a s } := by
  cases i
  case lcdInit => exact .inr (.inl ⟨rfl, rfl⟩)
  case lcdStr a =>
    by_cases head : s.seq % strPeriod = 0
    · exact .inr (.inr ⟨a, rfl, head, if_pos head⟩)
    · exact .inl (if_neg head)
  all_goals exact .inl rfl

/-! Its fields: the others are left alone. -/

theorem enter_eq (i : Instr) (s : State) : ∃ lcd ptr, i.enter s = { s with lcdState := lcd, strPtr := ptr } := by
  rcases enter_cases i s with h | ⟨-, h⟩ | ⟨a, -, -, h⟩ <;> exact ⟨_, _, h⟩

@[simp] theorem enter_busy (i : Instr) (s : State) : (i.enter s).busy = s.busy := by
  obtain ⟨_, _, h⟩ := enter_eq i s; rw [h]
@[simp] theorem enter_cmd (i : Instr) (s : State) : (i.enter s).cmd = s.cmd := by
  obtain ⟨_, _, h⟩ := enter_eq i s; rw [h]
@[simp] theorem enter_seq (i : Instr) (s : State) : (i.enter s).seq = s.seq := by
  obtain ⟨_, _, h⟩ := enter_eq i s; rw [h]
@[simp] theorem enter_rsp (i : Instr) (s : State) : (i.enter s).rsp = s.rsp := by
  obtain ⟨_, _, h⟩ := enter_eq i s; rw [h]
@[simp] theorem enter_lines (i : Instr) (s : State) : (i.enter s).lines = s.lines := by
  obtain ⟨_, _, h⟩ := enter_eq i s; rw [h]
@[simp] theorem enter_scratch (i : Instr) (s : State) : (i.enter s).scratch = s.scratch := by
  obtain ⟨_, _, h⟩ := enter_eq i s; rw [h]
@[simp] theorem enter_held (i : Instr) (s : State) : (i.enter s).held = s.held := by
  obtain ⟨_, _, h⟩ := enter_eq i s; rw [h]
@[simp] theorem enter_readBack (i : Instr) (s : State) : (i.enter s).readBack = s.readBack := by
  obtain ⟨_, _, h⟩ := enter_eq i s; rw [h]
@[simp] theorem enter_phase (i : Instr) (s : State) : (i.enter s).phase = s.phase := by
  obtain ⟨_, _, h⟩ := enter_eq i s; rw [h]
@[simp] theorem enter_params (i : Instr) (s : State) : (i.enter s).params = s.params := by
  obtain ⟨_, _, h⟩ := enter_eq i s; rw [h]
@[simp] theorem enter_trace (i : Instr) (s : State) : (i.enter s).trace = s.trace := by
  obtain ⟨_, _, h⟩ := enter_eq i s; rw [h]
@[simp] theorem enter_env (i : Instr) (s : State) : (i.enter s).env = s.env := by
  obtain ⟨_, _, h⟩ := enter_eq i s; rw [h]
theorem enter_lcdStr_head (a : StrAddr) (h : s.seq % strPeriod = 0) :
    (Instr.lcdStr a).enter s = { s with strPtr := nextStrPtr a s } := if_pos h

theorem enter_lcdStr_past (a : StrAddr) (h : s.seq % strPeriod ≠ 0) : (Instr.lcdStr a).enter s = s := if_neg h

theorem enter_lcdState (i : Instr) (s : State) :
    (i.enter s).lcdState = if i = .lcdInit then .initializing else s.lcdState := by
  rcases enter_cases i s with h | ⟨rfl, h⟩ | ⟨a, rfl, -, h⟩ <;> rw [h]
  · split
    next init => subst i; exact congrArg State.lcdState h.symm
    next => rfl
  · rfl
  · rfl

/-- The loop of `LCD_STR`: at its head the `MemRead`, past it the byte read or the completion (42_lcd.md R169). -/
theorem lcdStrStep_eq_goOn (a : StrAddr) (s : State) : lcdStrStep a s = (Instr.lcdStr a).goOn s := by
  unfold lcdStrStep
  split
  next head => rw [goOn_of_opAt (opAt_lcdStr_head a head), enter_lcdStr_head a head]
  next k past =>
    have here := opAt_lcdStr_past a past
    by_cases zero : s.held = 0x00#8
    · rw [if_pos zero] at here ⊢
      exact (goOn_of_opAt_none here).symm
    · rw [if_neg zero] at here ⊢
      rw [runAt, Instr.goOn, here, enter_lcdStr_past a (by omega)]
      rfl

/-- Where no check stops it, the step of a command is its micro-operation or its completion. -/
theorem exec_of_going (h : Going i s) : exec i s = .next (i.goOn s) := by
  have bus : i.isRtc = true → ∀ ops done, runBus ops done s = runAt s.seq ops done s := fun rtc ops done =>
    runBus_runs ops done s (h.unfailed rtc)
  have send : i.needsReady = true → ∀ ops, lcdSend ops s = runAt s.seq ops (respondOk Results.zero) s :=
    fun needs ops => if_pos (h.ready needs)
  cases i
  case bin2bcd n =>
    have bound : n.toNat ≤ 99 := by simpa [Instr.operandsLegal] using h.legal
    exact exec_bin2bcd_of_some (binToBcd_eq n bound) s
  case bcd2bin b => exact exec_bcd2bin b s
  case rtcSetTime =>
    rw [exec, execRtcSetTime, setTimeOps_eq_some_ops h.legal]
    exact congrArg _ (bus rfl _ _)
  case rtcSetDate =>
    rw [exec, execRtcSetDate, setDateOps_eq_some_ops h.legal]
    exact congrArg _ (bus rfl _ _)
  case lcdInit => rfl
  case lcdStr a =>
    exact congrArg _ ((if_pos (h.ready rfl)).trans (lcdStrStep_eq_goOn a s))
  case rtcInit => exact congrArg _ (bus rfl _ _)
  case rtcGetTime => exact congrArg _ (bus rfl _ _)
  case rtcGetDate => exact congrArg _ (bus rfl _ _)
  all_goals exact congrArg _ (send rfl _)

/-- What one step of a command can be, each case with the state it is in. -/
theorem exec_next_cases (h : exec i s = .next t) :
    (i.operandsLegal = false ∧ t = raise .invalidField s) ∨
    (i.needsReady = true ∧ s.lcdState ≠ .ready ∧ t = raise .notReady s) ∨
    (i.isRtc = true ∧ i.operandsLegal = true ∧ s.phase = .failed ∧ t = raise .busError s) ∨
    (Going i s ∧ ∃ op, i.opAt s = some op ∧ t = perform op (i.enter s)) ∨
    (Going i s ∧ i.opAt s = none ∧ t = i.finish s) := by
  by_cases legal : i.operandsLegal = true
  case neg =>
    rw [Bool.not_eq_true] at legal
    exact .inl ⟨legal, Host.Outcome.next.inj (h.symm.trans (exec_of_not_operandsLegal legal s))⟩
  by_cases unready : i.needsReady = true ∧ s.lcdState ≠ .ready
  · obtain ⟨needs, notReady⟩ := unready
    exact .inr (.inl ⟨needs, notReady, Host.Outcome.next.inj (h.symm.trans (exec_of_not_ready needs notReady))⟩)
  by_cases failed : i.isRtc = true ∧ s.phase = .failed
  · obtain ⟨rtc, failed⟩ := failed
    exact .inr (.inr (.inl
      ⟨rtc, legal, failed, Host.Outcome.next.inj (h.symm.trans (exec_of_failed rtc legal failed))⟩))
  have going : Going i s :=
    ⟨legal, fun needs => by_contra fun no => unready ⟨needs, no⟩, fun rtc no => failed ⟨rtc, no⟩⟩
  have next : t = i.goOn s := Host.Outcome.next.inj (h.symm.trans (exec_of_going going))
  cases here : i.opAt s with
  | some op => exact .inr (.inr (.inr (.inl ⟨going, op, rfl, next.trans (goOn_of_opAt here)⟩)))
  | none => exact .inr (.inr (.inr (.inr ⟨going, rfl, next.trans (goOn_of_opAt_none here)⟩)))

end

end Sys2Proof.Machine
end

section
/-! PROOFS. What one step of the machine can be (`step_cases`), and the micro-operations a command can make, by the part
of the block it belongs to. -/

namespace Sys2Proof

/-- The bytes of the block an RTC command reads into (41_rtc.md R133, R136, R139; assumption log 13, 26). -/
def Instr.readsInto : Instr → Machine.ReadDest → Bool
  | .rtcInit, d => decide (d = .readBack)
  | .rtcGetTime, d => decide (d ≠ .readBack ∧ d ≠ .scratch3)
  | .rtcGetDate, d => decide (d ≠ .readBack)
  | _, _ => false

end Sys2Proof

namespace Sys2Proof.Machine

/-! ### The step of the machine (R207) -/

section
variable {s t : State}

theorem dropAct_of_nil (h : s.env.acts = []) : s.dropAct = s := by
  have acts : s.env.acts.tail = s.env.acts := by rw [h]; rfl
  rw [State.dropAct, acts]

theorem touchChip_mem (f : SimRtc → SimRtc) (e : Env) : (e.touchChip f).mem = e.mem := by
  unfold Env.touchChip
  split <;> rfl

theorem touchChip_chipWf {f : SimRtc → SimRtc} (keeps : ∀ c : SimRtc, c.wf = true → (f c).wf = true) {e : Env}
    (h : e.chipWf = true) : (e.touchChip f).chipWf = true := by
  unfold Env.touchChip
  split
  next fs chip bus => exact keeps chip (by simpa only [Env.chipWf, bus] using h)
  next => exact h

/-- What one step of the machine can be: the step of the command in progress, the step of the idle block, a reset, or
an act that leaves the block as it is and keeps the memories outside in canonical form. -/
theorem step_cases (h : step s = .next t) :
    (s.busy = true ∧ commandStep s.dropAct = .next t) ∨ (s.busy = false ∧ t = idleStep s.dropAct) ∨
    (s.env.acts.head? = some .reset ∧ t = resetBlock s.dropAct) ∨
    ∃ e : Env, t = s.withEnv e ∧ (Memory.wf s.env.mem = true → Memory.wf e.mem = true) ∧
      (s.env.chipWf = true → e.chipWf = true) := by
  have block : blockStep s.dropAct = .next t →
      (s.busy = true ∧ commandStep s.dropAct = .next t) ∨ (s.busy = false ∧ t = idleStep s.dropAct) := by
    intro h
    rw [blockStep, dropAct_busy] at h
    split at h
    next busy => exact .inl ⟨busy, h⟩
    next idle => exact .inr ⟨by simpa using idle, (Host.Outcome.next.inj h).symm⟩
  have outside : ∀ e : Env, s.withEnv e = t → (Memory.wf s.env.mem = true → Memory.wf e.mem = true) →
      (s.env.chipWf = true → e.chipWf = true) → ∃ e : Env, t = s.withEnv e ∧
        (Memory.wf s.env.mem = true → Memory.wf e.mem = true) ∧ (s.env.chipWf = true → e.chipWf = true) :=
    fun e same mem chip => ⟨e, same.symm, mem, chip⟩
  unfold step at h
  split at h
  next none =>
    rw [← dropAct_of_nil none] at h
    rcases block h with command | idle
    · exact .inl command
    · exact .inr (.inl idle)
  next a rest acts =>
    cases a
    case run =>
      rcases block h with command | idle
      · exact .inl command
      · exact .inr (.inl idle)
    case reset => exact .inr (.inr (.inl ⟨by rw [acts]; rfl, (Host.Outcome.next.inj h).symm⟩))
    all_goals refine .inr (.inr (.inr ?_))
    case takeResponse =>
      simp only [applyAct, takeResponse] at h
      split at h
      · exact outside _ (Host.Outcome.next.inj h) id id
      · cases h
    case takeResults =>
      simp only [applyAct, takeResults] at h
      split at h
      · exact outside _ (Host.Outcome.next.inj h) id id
      · cases h
      · cases h
    case poke a v => exact outside _ (Host.Outcome.next.inj h) (Memory.write_wf _ a v) id
    case chipSet reg v =>
      exact outside _ (Host.Outcome.next.inj h) (fun wf => by rw [touchChip_mem]; exact wf)
        (touchChip_chipWf (e := s.dropAct.env) (fun c wf => c.setReg_wf reg v wf))
    case chipPtr ptr =>
      exact outside _ (Host.Outcome.next.inj h) (fun wf => by rw [touchChip_mem]; exact wf)
        (touchChip_chipWf (f := fun c => { c with ptr := ptr }) (e := s.dropAct.env) (fun _ wf => wf))
    all_goals exact outside _ (Host.Outcome.next.inj h) id id

/-- A command step is the step of the command its word spells, or completes a reserved word (R80, R202). -/
theorem commandStep_cases (h : commandStep s = .next t) :
    (∃ i, decode s.cmd = .instr i ∧ exec i s = .next t) ∨
    (∃ op, decode s.cmd = .reserved op ∧ t = raise .unimplemented s) := by
  unfold commandStep at h
  split at h
  next i dec => exact .inl ⟨i, dec, h⟩
  next op dec => exact .inr ⟨op, dec, (Host.Outcome.next.inj h).symm⟩

/-- The step of an idle block accepts a word, or changes nothing (R200, R251). -/
theorem idleStep_cases (s : State) :
    (∃ w rest, s.env.port = w :: rest ∧ idleStep s = accept w (s.withEnv { s.env with port := rest })) ∨
    (s.env.port = [] ∧ idleStep s = s) := by
  unfold idleStep
  split
  next none => exact .inr ⟨none, rfl⟩
  next w rest port => exact .inl ⟨w, rest, port, rfl⟩

end

/-! ### The micro-operations of the two parts (00_scope.md R11) -/

section
variable {i : Instr} {s : State} {p : Params} {op : MicroOp}

theorem isLine_of_mem_ops (lcd : i.isLcd = true) (h : op ∈ i.ops p) : op.isLine = true := by
  have byte := sendByteOps_isLine p
  have settled : ∀ b, op ∈ sendByteOps p false b ++ [.delayMs p.tSettleMs] → op.isLine = true := by
    intro b h
    rcases List.mem_append.mp h with h | h
    · exact byte _ _ _ h
    · rw [List.mem_singleton.mp h]; rfl
  cases i <;> cases lcd
  case lcdInit => exact lcdInitOps_isLine p op h
  case lcdCmd => exact byte _ _ _ h
  case lcdChar => exact byte _ _ _ h
  case lcdStr => cases h
  case lcdHome => exact settled _ h
  case lcdClear => exact settled _ h
  case lcdCursor row column =>
    simp only [Instr.ops, cursorOps] at h
    split at h
    · exact byte _ _ _ h
    · cases h

theorem isLcd_of_needsReady (needs : i.needsReady = true) : i.isLcd = true := by rw [Instr.isLcd, needs]; rfl

theorem operandsLegal_of_isLcd (lcd : i.isLcd = true) : i.operandsLegal = true := by
  cases i <;> cases lcd <;> rfl

theorem isRtc_of_isLcd (lcd : i.isLcd = true) : i.isRtc = false := by
  cases i <;> cases lcd <;> rfl

theorem isLcd_of_isRtc (rtc : i.isRtc = true) : i.isLcd = false := by
  cases i <;> cases rtc <;> rfl

theorem needsReady_of_isLcd (lcd : i.isLcd = true) (notInit : i ≠ .lcdInit) : i.needsReady = true := by
  simpa [Instr.isLcd, notInit] using lcd

/-- An LCD command moves a line or waits, and `LCD_STR` reads the string memory at the head of its loop. -/
theorem opAt_of_isLcd (lcd : i.isLcd = true) (h : i.opAt s = some op) :
    op.isLine = true ∨ ∃ a, i = .lcdStr a ∧ s.seq % strPeriod = 0 ∧ op = .memRead (nextStrPtr a s) := by
  by_cases str : ∃ a, i = .lcdStr a
  · obtain ⟨a, rfl⟩ := str
    cases pos : s.seq % strPeriod with
    | zero => exact .inr ⟨a, rfl, rfl, by simpa [opAt_lcdStr_head a pos] using h.symm⟩
    | succ k =>
      rw [opAt_lcdStr_past a pos] at h
      split at h
      · cases h
      · exact .inl (sendByteOps_isLine _ _ _ _ (List.mem_of_getElem? h))
  · rw [opAt_eq_getElem? (not_exists.mp str)] at h
    exact .inl (isLine_of_mem_ops lcd (List.mem_of_getElem? h))

theorem setTimeOps_getD_isBus {sec min hr fmt : Byte} (h : op ∈ (setTimeOps p sec min hr fmt).getD []) :
    ∃ bytes, op = .busWrite bytes := by
  cases valid : validTime sec min hr fmt with
  | false => simp [setTimeOps_eq_none valid] at h
  | true =>
    simp only [setTimeOps_valid _ _ _ _ _ valid, Option.getD_some, List.mem_cons, List.not_mem_nil, or_false] at h
    rcases h with rfl | rfl | rfl <;> exact ⟨_, rfl⟩

theorem setDateOps_getD_isBus {d mo y w : Byte} (h : op ∈ (setDateOps p d mo y w).getD []) :
    ∃ bytes, op = .busWrite bytes := by
  cases valid : validDate d mo y w with
  | false => simp [setDateOps_eq_none valid] at h
  | true =>
    simp only [setDateOps_valid _ _ _ _ _ valid, Option.getD_some, List.mem_cons, List.not_mem_nil, or_false] at h
    rcases h with rfl | rfl | rfl | rfl <;> exact ⟨_, rfl⟩

/-- An RTC command makes no micro-operation but `BusInit`, bus writes, and reads into its own bytes. -/
theorem mem_ops_of_isRtc (rtc : i.isRtc = true) (h : op ∈ i.ops p) :
    op = .busInit ∨ (∃ bytes, op = .busWrite bytes) ∨ ∃ d, op = .busRead d ∧ i.readsInto d = true := by
  cases i <;> cases rtc
  case rtcSetTime => exact .inr (.inl (setTimeOps_getD_isBus h))
  case rtcSetDate => exact .inr (.inl (setDateOps_getD_isBus h))
  all_goals
    simp only [Instr.ops, rtcInitOps, getTimeOps, getDateOps, regWriteOps, regReadOps, List.mem_cons, List.mem_append,
      List.not_mem_nil, or_false] at h
    casesm* _ ∨ _ <;> subst op <;> simp [Instr.readsInto]

theorem opAt_of_isRtc (rtc : i.isRtc = true) (h : i.opAt s = some op) :
    op = .busInit ∨ (∃ bytes, op = .busWrite bytes) ∨ ∃ d, op = .busRead d ∧ i.readsInto d = true := by
  have notStr : ∀ a, i ≠ .lcdStr a := by rintro a rfl; cases rtc
  rw [opAt_eq_getElem? notStr] at h
  exact mem_ops_of_isRtc rtc (List.mem_of_getElem? h)

theorem isLcd_of_not_isRtc (notRtc : i.isRtc = false) (notBcd : i.isBcd = false) : i.isLcd = true := by
  cases i <;> simp_all [Instr.isRtc, Instr.isBcd, Instr.isLcd, Instr.needsReady]

/-- Only an LCD command moves a line or waits. -/
theorem isLine_of_opAt_of_not_isLcd (notLcd : i.isLcd = false) (h : i.opAt s = some op) : op.isLine = false := by
  by_cases bcd : i.isBcd = true
  · cases i <;> cases bcd <;> cases h
  · have rtc : i.isRtc = true := by
      by_contra rtc
      simp [isLcd_of_not_isRtc (by simpa using rtc) (by simpa using bcd)] at notLcd
    rcases opAt_of_isRtc rtc h with rfl | ⟨bytes, rfl⟩ | ⟨d, rfl, -⟩ <;> rfl

theorem opAt_of_isBcd (bcd : i.isBcd = true) (s : State) : i.opAt s = none := by
  cases i <;> cases bcd <;> rfl

end

end Sys2Proof.Machine
end

section
/-! PROOFS. The LCD invariant (42_lcd.md R160 to R164): the shape of the lists of micro-operations that it rests on (the
EN pulses where `enHighAt` says, RW driven low only, no line configured past the set-up), what one micro-operation does
to each clause, and from these that every step keeps it. -/

namespace Sys2Proof.Machine

/-! ### The shape of the lists -/

/-- Whether EN is high after a micro-operation, from whether it is before. -/
def MicroOp.enAfter (high : Bool) : MicroOp → Bool
  | .lineWrite .en v => v
  | .lineCfg .en => false
  | _ => high

/-- A micro-operation that drives RW high. -/
def MicroOp.raisesRw : MicroOp → Bool
  | .lineWrite .rw v => v
  | _ => false

/-- A micro-operation that configures a line, so that it holds no level. -/
def MicroOp.configures : MicroOp → Bool
  | .lineCfg _ => true
  | _ => false

/-- From position `k` on, the list takes EN through the values `high` names. -/
def pulsesAt (high : Nat → Bool) : Nat → List MicroOp → Bool
  | _, [] => true
  | k, op :: ops => (high (k + 1) == op.enAfter (high k)) && pulsesAt high (k + 1) ops

theorem enAfter_of_pulsesAt {high : Nat → Bool} {k : Nat} {ops : List MicroOp} (h : pulsesAt high k ops = true)
    {j : Nat} {op : MicroOp} (here : ops[j]? = some op) : high (k + j + 1) = op.enAfter (high (k + j)) := by
  induction ops generalizing k j with
  | nil => simp at here
  | cons op' ops ih =>
    rw [pulsesAt, Bool.and_eq_true, beq_iff_eq] at h
    obtain ⟨first, others⟩ := h
    cases j with
    | zero =>
      cases here
      exact first
    | succ j =>
      have := ih others here
      rwa [show k + 1 + j = k + (j + 1) by omega] at this

section
variable {i : Instr} {s : State} {op : MicroOp} (p : Params)

theorem pulsesAt_sendByteOps (rs : Bool) (b : Byte) : pulsesAt enHighInByte 0 (sendByteOps p rs b) = true := rfl

theorem cursorOps_cases (row column : Byte) :
    cursorOps p row column = [] ∨ ∃ b, cursorOps p row column = sendByteOps p false b := by
  unfold cursorOps
  split
  · exact .inr ⟨_, rfl⟩
  · exact .inl rfl

theorem pulsesAt_ops (lcd : i.isLcd = true) : pulsesAt (enHighAt i) 0 (i.ops p) = true := by
  cases i <;> cases lcd
  case lcdCursor row column =>
    by_cases shown : row = 1#8 ∨ row = 2#8
    · rcases shown with rfl | rfl <;> rfl
    · rw [not_or] at shown
      simp [Instr.ops, cursorOps, cursorCmd, shown, pulsesAt]
  all_goals rfl

theorem raisesRw_sendByteOps (rs : Bool) (b : Byte) : (sendByteOps p rs b).all (!·.raisesRw) = true := rfl

theorem raisesRw_ops (lcd : i.isLcd = true) : (i.ops p).all (!·.raisesRw) = true := by
  cases i <;> cases lcd
  case lcdCursor row column =>
    change (cursorOps p row column).all _ = true
    rcases cursorOps_cases p row column with e | ⟨b, e⟩ <;> rw [e] <;> rfl
  all_goals rfl

theorem configures_ops (ready : i.needsReady = true) : (i.ops p).all (!·.configures) = true := by
  cases i <;> cases ready
  case lcdCursor row column =>
    change (cursorOps p row column).all _ = true
    rcases cursorOps_cases p row column with e | ⟨b, e⟩ <;> rw [e] <;> rfl
  all_goals rfl

/-- Past the set-up `LCD_INIT` configures no line (42_lcd.md R166, phase P0). -/
theorem configures_lcdInitOps : ((lcdInitOps p).drop 7).all (!·.configures) = true := rfl

/-- Phase P1 of `LCD_INIT`: line `j` is driven low at position `7 + j`. -/
theorem lcdInitOps_drives {j : Nat} {l : Line} (h : allLines[j]? = some l) :
    (lcdInitOps p)[7 + j]? = some (.lineWrite l false) := by
  have short : j < 7 := (List.getElem?_eq_some_iff.mp h).1
  interval_cases j <;> cases h <;> rfl

/-! ### One micro-operation of a command -/

variable {p}

theorem enAfter_of_not_isLine (h : op.isLine = false) (high : Bool) : op.enAfter high = high := by
  cases op <;> cases h <;> rfl

theorem raisesRw_of_not_isLine (h : op.isLine = false) : op.raisesRw = false := by
  cases op <;> cases h <;> rfl

theorem configures_of_not_isLine (h : op.isLine = false) : op.configures = false := by
  cases op <;> cases h <;> rfl

theorem enHighAt_of_not_isLcd (notLcd : i.isLcd = false) (k : Nat) : enHighAt i k = false := by
  cases i <;> cases notLcd <;> rfl

/-- EN is high at the next position exactly where the micro-operation at this one leaves it high. -/
theorem enHighAt_succ (here : i.opAt s = some op) : enHighAt i (s.seq + 1) = op.enAfter (enHighAt i s.seq) := by
  by_cases str : ∃ a, i = .lcdStr a
  · obtain ⟨a, rfl⟩ := str
    cases pos : s.seq % strPeriod with
    | zero =>
      rw [opAt_lcdStr_head a pos, Option.some_inj] at here
      subst op
      have next : (s.seq + 1) % strPeriod = 1 := by unfold strPeriod at *; omega
      simp [enHighAt, pos, next, MicroOp.enAfter, enHighInByte]
    | succ k =>
      rw [opAt_lcdStr_past a pos] at here
      split at here
      · cases here
      have inByte := enAfter_of_pulsesAt (pulsesAt_sendByteOps s.params true s.held) here
      have short : k < 18 := (List.getElem?_eq_some_iff.mp here).1
      have now : enHighAt (.lcdStr a) s.seq = enHighInByte k := by simp [enHighAt, pos]
      have next : enHighAt (.lcdStr a) (s.seq + 1) = enHighInByte (k + 1) := by
        by_cases last : k = 17
        · have wraps : (s.seq + 1) % strPeriod = 0 := by unfold strPeriod at *; omega
          simp [enHighAt, wraps, last, enHighInByte]
        · have pos' : (s.seq + 1) % strPeriod = k + 2 := by unfold strPeriod at *; omega
          simp [enHighAt, pos']
      rw [now, next]
      simpa using inByte
  · rw [opAt_eq_getElem? (not_exists.mp str)] at here
    by_cases lcd : i.isLcd = true
    · simpa using enAfter_of_pulsesAt (pulsesAt_ops s.params lcd) here
    · rw [Bool.not_eq_true] at lcd
      rw [enHighAt_of_not_isLcd lcd, enHighAt_of_not_isLcd lcd, enAfter_of_not_isLine]
      exact isLine_of_opAt_of_not_isLcd lcd (s := s) (by rwa [opAt_eq_getElem? (not_exists.mp str)])

/-- What holds of every micro-operation of the lists, and of a `MemRead`, holds of every one an LCD command makes. -/
theorem forall_opAt {f : MicroOp → Bool} (inOps : (i.ops s.params).all f = true)
    (inByte : ∀ b, (sendByteOps s.params true b).all f = true) (memRead : ∀ a, f (.memRead a) = true)
    (here : i.opAt s = some op) : f op = true := by
  by_cases str : ∃ a, i = .lcdStr a
  · obtain ⟨a, rfl⟩ := str
    cases pos : s.seq % strPeriod with
    | zero =>
      rw [opAt_lcdStr_head a pos, Option.some_inj] at here
      exact here ▸ memRead _
    | succ k =>
      rw [opAt_lcdStr_past a pos] at here
      split at here
      · cases here
      · exact List.all_eq_true.mp (inByte _) op (List.mem_of_getElem? here)
  · rw [opAt_eq_getElem? (not_exists.mp str)] at here
    exact List.all_eq_true.mp inOps op (List.mem_of_getElem? here)

/-- No command drives RW high (42_lcd.md R164). -/
theorem raisesRw_of_opAt (here : i.opAt s = some op) : op.raisesRw = false := by
  by_cases lcd : i.isLcd = true
  · simpa using forall_opAt (f := (!·.raisesRw)) (raisesRw_ops _ lcd) (raisesRw_sendByteOps _ true) (fun _ => rfl) here
  · exact raisesRw_of_not_isLine (isLine_of_opAt_of_not_isLcd (by simpa using lcd) here)

/-- No command but `LCD_INIT` configures a line. -/
theorem configures_of_opAt (notInit : i ≠ .lcdInit) (here : i.opAt s = some op) : op.configures = false := by
  by_cases lcd : i.isLcd = true
  · simpa using forall_opAt (f := (!·.configures)) (configures_ops _ (needsReady_of_isLcd lcd notInit)) (fun _ => rfl)
      (fun _ => rfl) here
  · exact configures_of_not_isLine (isLine_of_opAt_of_not_isLcd (by simpa using lcd) here)

/-- `LCD_INIT` configures no line past the set-up, and drives line `j` low at position `7 + j`. -/
theorem opAt_lcdInit (here : Instr.lcdInit.opAt s = some op) : (7 ≤ s.seq → op.configures = false) ∧
    ∀ j l, allLines[j]? = some l → s.seq = 7 + j → op = .lineWrite l false := by
  have here : (lcdInitOps s.params)[s.seq]? = some op := here
  refine ⟨fun past => ?_, fun j l line pos => ?_⟩
  · have inRest : ((lcdInitOps s.params).drop 7)[s.seq - 7]? = some op := by
      rw [List.getElem?_drop, Nat.add_sub_cancel' past, here]
    simpa using List.all_eq_true.mp (configures_lcdInitOps s.params) op (List.mem_of_getElem? inRest)
  · rw [pos, lcdInitOps_drives s.params line, Option.some_inj] at here
    exact here.symm

/-- `LCD_STR` past the head of its loop sends a byte that is no terminator. -/
theorem opAt_lcdStr_cases {a : StrAddr} (here : (Instr.lcdStr a).opAt s = some op) :
    s.seq % strPeriod = 0 ∨ (s.held ≠ 0x00#8 ∧ ∀ b, op ≠ .memRead b) := by
  cases pos : s.seq % strPeriod with
  | zero => exact .inl rfl
  | succ k =>
    rw [opAt_lcdStr_past a pos] at here
    split at here
    · cases here
    next nonzero =>
      refine .inr ⟨nonzero, fun b read => ?_⟩
      have line := sendByteOps_isLine _ _ _ _ (List.mem_of_getElem? here)
      simp [read, MicroOp.isLine] at line

end

/-! ### The lines after one micro-operation -/

section
variable {s : State} {op : MicroOp}

theorem perform_lines_of_not_isLine (h : op.isLine = false) : (perform op s).lines = s.lines := by
  rw [perform_lines]
  cases op <;> cases h <;> rfl

theorem perform_lines_of_answered (h : op.answered = true) : (perform op s).lines = s.lines := by
  rw [perform_lines]
  cases op <;> cases h <;> rfl

theorem enAfter_of_perform_en (h : (perform op s).lines.en = .high) :
    op.enAfter (decide (s.lines.en = .high)) = true := by
  rw [perform_lines] at h
  cases op
  case lineCfg l => cases l <;> simp_all [Lines.set, MicroOp.enAfter]
  case lineWrite l v => cases l <;> cases v <;> simp_all [Lines.set, MicroOp.enAfter, LineLevel.ofBool]
  all_goals simpa [MicroOp.enAfter] using h

theorem enAfter_mono {b c : Bool} (le : b = true → c = true) (h : op.enAfter b = true) : op.enAfter c = true := by
  unfold MicroOp.enAfter at *
  split at h <;> simp_all

theorem perform_rw_ne_high (low : s.lines.rw ≠ .high) (h : op.raisesRw = false) : (perform op s).lines.rw ≠ .high := by
  rw [perform_lines]
  cases op
  case lineCfg l => cases l <;> simp_all [Lines.set]
  case lineWrite l v => cases l <;> cases v <;> simp_all [Lines.set, MicroOp.raisesRw, LineLevel.ofBool]
  all_goals exact low

theorem driven_ofBool (v : Bool) : (LineLevel.ofBool v).driven := by cases v; exacts [.inl rfl, .inr rfl]

theorem perform_driven {l : Line} (driven : (s.lines.get l).driven) (h : op.configures = false) :
    ((perform op s).lines.get l).driven := by
  rw [perform_lines]
  cases op
  case lineCfg => cases h
  case lineWrite l' v =>
    simp only [Lines.get_set]
    split
    · exact driven_ofBool v
    · exact driven
  all_goals exact driven

theorem perform_lineWrite_driven (l : Line) (v : Bool) :
    ((perform (.lineWrite l v) s).lines.get l).driven := by
  rw [perform_lines]
  simpa using driven_ofBool v

end

/-! ### The invariant -/

section
variable {s t : State} {i : Instr} {op : MicroOp}

/-- What the invariant speaks of: the same in two states, it holds of both or of neither. -/
theorem LcdInv.congr (h : LcdInv s) (lcd : t.lcdState = s.lcdState) (busy : t.busy = s.busy) (cmd : t.cmd = s.cmd)
    (seq : t.seq = s.seq) (lines : t.lines = s.lines) (held : t.held = s.held) : LcdInv t := by
  obtain ⟨initIff, uninit, ready, progress, rwNeverHigh, enPulse, strHeld⟩ := h
  constructor <;> simp only [lcd, busy, cmd, seq, lines, held] <;> assumption

theorem LcdInv.withEnv (h : LcdInv s) (e : Env) : LcdInv (s.withEnv e) := h.congr rfl rfl rfl rfl rfl rfl

theorem LcdInv.lcdState_ne_initializing (h : LcdInv s) (notInit : ¬ (s.busy = true ∧ decode s.cmd = .instr .lcdInit)) :
    s.lcdState ≠ .initializing := fun is => notInit (h.initIff.mp is)

theorem LcdInv.en_ne_high_of_idle (h : LcdInv s) (idle : s.busy = false) : s.lines.en ≠ .high := fun high => by
  obtain ⟨busy, -⟩ := h.enPulse high
  simp [idle] at busy

theorem LcdInv.en_ne_high (h : LcdInv s) (dec : decode s.cmd = .instr i) (low : enHighAt i s.seq = false) :
    s.lines.en ≠ .high := fun high => by
  obtain ⟨-, j, decJ, inPulse⟩ := h.enPulse high
  cases Decoded.instr.inj (dec.symm.trans decJ)
  simp [low] at inPulse

/-- A block that is idle, not in `Initializing`, with EN not high. -/
theorem LcdInv.of_idle (h : LcdInv s) (lcd : t.lcdState = s.lcdState) (idle : t.busy = false)
    (lines : t.lines = s.lines) (notInit : s.lcdState ≠ .initializing) (en : s.lines.en ≠ .high) : LcdInv t where
  initIff := by simp [lcd, idle, notInit]
  uninit := by rw [lcd, lines]; exact h.uninit
  ready := by rw [lcd, lines]; exact h.ready
  progress is := absurd (lcd ▸ is) notInit
  rwNeverHigh := by rw [lines]; exact h.rwNeverHigh
  enPulse high := absurd (lines ▸ high) en
  strHeld busy := by simp [idle] at busy

/-- The LCD part after reset (10_state.md R44). -/
theorem lcdInv_reset : LcdInv State.reset :=
  ⟨by decide, fun _ => rfl, fun is => absurd is (by decide), fun is => absurd is (by decide), by decide,
    fun high => absurd high (by decide), fun busy => absurd busy (by decide)⟩

theorem lcdInv_resetBlock (s : State) : LcdInv (resetBlock s) := lcdInv_reset.congr rfl rfl rfl rfl rfl rfl

/-- Acceptance (42_lcd.md R161: with `LCD_INIT` it enters `Initializing`). -/
theorem LcdInv.accept_keeps (h : LcdInv s) (idle : s.busy = false) (w : Word40) : LcdInv (accept w s) where
  initIff := by
    have notInit := h.lcdState_ne_initializing (by simp [idle])
    simp [accept_lcdState, notInit]
  uninit is := by
    rw [accept_lcdState] at is
    split at is
    · cases is
    · simpa using h.uninit is
  ready is := by
    rw [accept_lcdState] at is
    split at is
    · cases is
    · simpa using h.ready is
  progress _ j l _ pos := by simp at pos
  rwNeverHigh := by simpa using h.rwNeverHigh
  enPulse high := absurd (by simpa using high) (h.en_ne_high_of_idle idle)
  strHeld _ a _ pos := by simp at pos

/-- A micro-operation of the command in progress keeps the invariant. -/
theorem LcdInv.perform_keeps (h : LcdInv s) (busy : s.busy = true) (dec : decode s.cmd = .instr i)
    (enNext : enHighAt i (s.seq + 1) = op.enAfter (enHighAt i s.seq)) (rwLow : op.raisesRw = false)
    (inReady : s.lcdState = .ready → op.configures = false) (inUninit : s.lcdState = .uninitialized → op.isLine = false)
    (inInit : i = .lcdInit → (7 ≤ s.seq → op.configures = false) ∧
      ∀ j l, allLines[j]? = some l → s.seq = 7 + j → op = .lineWrite l false)
    (inStr : ∀ a, i = .lcdStr a → s.seq % strPeriod = 0 ∨ (s.held ≠ 0x00#8 ∧ ∀ b, op ≠ .memRead b)) :
    LcdInv (perform op s) := by
  obtain ⟨busyKept, -, -, moves⟩ := perform_cases op s
  have seqCases : (perform op s).seq = s.seq + 1 ∨ (op.answered = true ∧ (perform op s).seq = s.seq) := by
    rcases moves with ⟨seq, -⟩ | ⟨answered, seq, -⟩ | ⟨-, seq, -⟩
    exacts [.inl seq, .inr ⟨answered, seq⟩, .inl seq]
  constructor
  case initIff => simpa [busyKept] using h.initIff
  case uninit =>
    intro is
    rw [perform_lcdState] at is
    rw [perform_lines_of_not_isLine (inUninit is), h.uninit is]
  case ready =>
    intro is l
    rw [perform_lcdState] at is
    exact perform_driven (h.ready is l) (inReady is)
  case progress =>
    intro is j l line pos
    rw [perform_lcdState] at is
    obtain ⟨-, decInit⟩ := h.initIff.mp is
    obtain ⟨past, drives⟩ := inInit (Decoded.instr.inj (dec.symm.trans decInit))
    by_cases before : 8 + j ≤ s.seq
    · exact perform_driven (h.progress is j l line before) (past (by omega))
    · rw [drives j l line (by omega)]
      exact perform_lineWrite_driven l false
  case rwNeverHigh => exact perform_rw_ne_high h.rwNeverHigh rwLow
  case enPulse =>
    intro high
    refine ⟨busyKept.trans busy, i, by rwa [perform_cmd], ?_⟩
    have pulseBefore : s.lines.en = .high → enHighAt i s.seq = true := fun before => by
      by_contra low
      exact h.en_ne_high dec (by simpa using low) before
    rcases seqCases with seq | ⟨answered, seq⟩ <;> rw [seq]
    · rw [enNext]
      exact enAfter_mono (by simpa using pulseBefore) (enAfter_of_perform_en high)
    · rw [perform_lines_of_answered answered] at high
      exact pulseBefore high
  case strHeld =>
    intro _ a decStr pos
    rw [perform_cmd] at decStr
    rcases inStr a (Decoded.instr.inj (dec.symm.trans decStr)) with head | ⟨nonzero, notRead⟩
    · rcases seqCases with seq | ⟨answered, seq⟩
      · rw [seq] at pos
        unfold strPeriod at *
        omega
      · rw [perform_held op s (by rintro b rfl; cases answered)]
        exact h.strHeld busy a decStr (seq ▸ pos)
    · rwa [perform_held op s notRead]

/-- In the step of a micro-operation a command writes nothing else that the invariant speaks of. -/
theorem LcdInv.enter (h : LcdInv s) (busy : s.busy = true) (dec : decode s.cmd = .instr i) : LcdInv (i.enter s) := by
  rcases enter_cases i s with same | ⟨rfl, same⟩ | ⟨a, -, -, same⟩ <;> rw [same]
  · exact h
  · exact h.congr (h.initIff.mpr ⟨busy, dec⟩).symm rfl rfl rfl rfl rfl
  · exact h.congr rfl rfl rfl rfl rfl rfl

/-- The step of a micro-operation of the command in progress. -/
theorem LcdInv.opStep_keeps (h : LcdInv s) (busy : s.busy = true) (dec : decode s.cmd = .instr i) (going : Going i s)
    (here : i.opAt s = some op) : LcdInv (perform op (i.enter s)) := by
  refine (h.enter busy dec).perform_keeps (by simpa using busy) (by simpa using dec)
    (by simpa using enHighAt_succ here) (raisesRw_of_opAt here) (fun ready => ?_) (fun uninit => ?_) ?_ ?_
  · refine configures_of_opAt (fun init => ?_) here
    simp [enter_lcdState, init] at ready
  · by_contra line
    have lcd : i.isLcd = true := by
      by_contra notLcd
      exact line (isLine_of_opAt_of_not_isLcd (by simpa using notLcd) here)
    rw [enter_lcdState] at uninit
    split at uninit
    · cases uninit
    next notInit => simp [going.ready (needsReady_of_isLcd lcd notInit)] at uninit
  · rintro rfl
    simpa using opAt_lcdInit here
  · rintro a rfl
    simpa using opAt_lcdStr_cases here

/-! ### The completions -/

theorem enHighInByte_of_le {k : Nat} (h : 18 ≤ k) : enHighInByte k = false := by
  simp [enHighInByte]; omega

theorem enHighInNibble_of_le {k : Nat} (h : 8 ≤ k) : enHighInNibble k = false := by
  simp [enHighInNibble]; omega

/-- A command is complete only outside a pulse. -/
theorem LcdInv.enHighAt_of_complete (h : LcdInv s) (busy : s.busy = true) (dec : decode s.cmd = .instr i)
    (none : i.opAt s = none) : enHighAt i s.seq = false := by
  have past : (∀ a, i ≠ .lcdStr a) → (i.ops s.params).length ≤ s.seq := fun notStr =>
    List.getElem?_eq_none_iff.mp ((opAt_eq_getElem? notStr s).symm.trans none)
  cases i
  case lcdInit =>
    have past : 122 ≤ s.seq := past (by simp)
    simp (disch := omega) [enHighAt, enHighInByte_of_le, enHighInNibble_of_le]
  case lcdCmd => exact enHighInByte_of_le (past (by simp))
  case lcdChar => exact enHighInByte_of_le (past (by simp))
  case lcdHome => exact enHighInByte_of_le (Nat.le_of_succ_le (past (by simp)))
  case lcdClear => exact enHighInByte_of_le (Nat.le_of_succ_le (past (by simp)))
  case lcdCursor row column =>
    have past := past (by simp)
    by_cases shown : row = 1#8 ∨ row = 2#8
    · have sent : 18 ≤ s.seq := by rcases shown with rfl | rfl <;> exact past
      simp [enHighAt, enHighInByte_of_le sent]
    · rw [not_or] at shown
      simp [enHighAt, shown]
  case lcdStr a =>
    cases pos : s.seq % strPeriod with
    | zero => simp [opAt_lcdStr_head a pos] at none
    | succ k =>
      rw [opAt_lcdStr_past a pos] at none
      split at none
      next zero =>
        have first : ¬ 2 ≤ s.seq % strPeriod := fun later => h.strHeld busy a dec (.inl later) zero
        have atTest : k = 0 := by omega
        simp [enHighAt, pos, atTest, enHighInByte]
      next =>
        have sent : 18 ≤ k := List.getElem?_eq_none_iff.mp none
        have short : s.seq % 19 < 19 := Nat.mod_lt _ (by decide)
        unfold strPeriod at pos
        omega
  all_goals rfl

/-- With its last micro-operation done `LCD_INIT` leaves every line driven (42_lcd.md R166, phase P14). -/
theorem LcdInv.finish_lcdInit_keeps (h : LcdInv s) (busy : s.busy = true) (dec : decode s.cmd = .instr .lcdInit)
    (none : Instr.lcdInit.opAt s = none) : LcdInv (Instr.lcdInit.finish s) where
  initIff := by simp [Instr.finish]
  uninit is := by simp [Instr.finish] at is
  ready _ l := by
    have past : 122 ≤ s.seq := List.getElem?_eq_none_iff.mp none
    obtain ⟨j, line⟩ : ∃ j, allLines[j]? = some l := by cases l <;> exact List.getElem?_of_mem (by decide)
    have short : j < 7 := (List.getElem?_eq_some_iff.mp line).1
    exact h.progress (h.initIff.mpr ⟨busy, dec⟩) j l line (by omega)
  progress is := by simp [Instr.finish] at is
  rwNeverHigh := h.rwNeverHigh
  enPulse high := absurd high (h.en_ne_high dec (h.enHighAt_of_complete busy dec none))
  strHeld isBusy := by simp [Instr.finish] at isBusy

/-- The step of the command in progress, whichever it is. -/
theorem LcdInv.exec_keeps (h : LcdInv s) (busy : s.busy = true) (dec : decode s.cmd = .instr i)
    (run : exec i s = .next t) : LcdInv t := by
  have notInitState : i ≠ .lcdInit → s.lcdState ≠ .initializing := fun notInit =>
    h.lcdState_ne_initializing fun ⟨_, decInit⟩ => notInit (Decoded.instr.inj (dec.symm.trans decInit))
  rcases exec_next_cases run with ⟨illegal, rfl⟩ | ⟨needs, notReady, rfl⟩ | ⟨rtc, -, -, rfl⟩ | ⟨going, op, here, rfl⟩ |
    ⟨going, none, rfl⟩
  · have notLcd : i.isLcd = false := by
      by_contra lcd
      simp [operandsLegal_of_isLcd (by simpa using lcd)] at illegal
    have notInit : i ≠ .lcdInit := by rintro rfl; cases notLcd
    exact h.of_idle rfl rfl rfl (notInitState notInit) (h.en_ne_high dec (enHighAt_of_not_isLcd notLcd _))
  · have notInit : i ≠ .lcdInit := by rintro rfl; cases needs
    have uninit : s.lcdState = .uninitialized := by
      cases is : s.lcdState
      exacts [rfl, absurd is (notInitState notInit), absurd is notReady]
    exact h.of_idle rfl rfl rfl (notInitState notInit) (by rw [h.uninit uninit]; decide)
  · have notLcd : i.isLcd = false := isLcd_of_isRtc rtc
    have notInit : i ≠ .lcdInit := by rintro rfl; cases rtc
    exact h.of_idle rfl rfl rfl (notInitState notInit) (h.en_ne_high dec (enHighAt_of_not_isLcd notLcd _))
  · exact h.opStep_keeps busy dec going here
  · by_cases init : i = .lcdInit
    · subst i
      exact h.finish_lcdInit_keeps busy dec none
    · have same : i.finish s = respondOk (i.results s) s := congrArg _ (if_neg init)
      rw [same]
      exact h.of_idle rfl rfl rfl (notInitState init) (h.en_ne_high dec (h.enHighAt_of_complete busy dec none))

/-- Settles O57: a reset, an act of the outside, an acceptance and a step of a command each keep the invariant. -/
theorem lcdInvariantKept : Obligations.LcdInvariantKept := by
  intro s t h run
  have kept : LcdInv s.dropAct := h.withEnv _
  rcases step_cases run with ⟨busy, command⟩ | ⟨idle, rfl⟩ | ⟨-, rfl⟩ | ⟨e, rfl, -, -⟩
  · rcases commandStep_cases command with ⟨i, dec, run⟩ | ⟨op, reserved, rfl⟩
    · exact kept.exec_keeps busy dec run
    · have noInstr : ∀ i, decode s.cmd ≠ .instr i := fun i dec => by
        cases reserved.symm.trans dec
      refine kept.of_idle rfl rfl rfl (h.lcdState_ne_initializing fun ⟨_, dec⟩ => noInstr _ dec) fun high => ?_
      obtain ⟨-, i, dec, -⟩ := h.enPulse high
      exact noInstr i dec
  · rcases idleStep_cases s.dropAct with ⟨w, rest, -, e⟩ | ⟨-, e⟩ <;> rw [e]
    · apply LcdInv.accept_keeps
      exacts [kept.withEnv _, idle]
    · exact kept
  · exact lcdInv_resetBlock _
  · exact h.withEnv e

end

end Sys2Proof.Machine
end

section
/-! PROOFS. The sequencer (43_sequencer.md): what acceptance writes, what one step of a command does to the sequencing
and to the trace, and that the big step of a command is its single steps. -/

namespace Sys2Proof.Machine

section
variable {i : Instr} {s t : State} {op : MicroOp}

/-! ### One step of a command -/

/-- A step of a command appends nothing to the trace, or one event: its response or that of a micro-operation. -/
theorem exec_trace (h : exec i s = .next t) : t.trace = s.trace ∨
    ∃ e, t.trace = s.trace ++ [e] ∧
      ((∃ st r, e = .response st r) ∨ ∃ op dev, i.opAt s = some op ∧ e = op.event dev) := by
  have response : ∀ st r u, u.trace = s.trace → t = respond st r u → t.trace = s.trace ∨ ∃ e, t.trace = s.trace ++ [e] ∧
      ((∃ st r, e = .response st r) ∨ ∃ op dev, i.opAt s = some op ∧ e = op.event dev) := by
    rintro st r u same rfl
    exact .inr ⟨.response st r, by simp [same], .inl ⟨st, r, rfl⟩⟩
  rcases exec_next_cases h with ⟨-, e⟩ | ⟨-, -, e⟩ | ⟨-, -, -, e⟩ | ⟨-, op, here, rfl⟩ | ⟨-, -, e⟩
  · exact response _ _ s rfl e
  · exact response _ _ s rfl e
  · exact response _ _ s rfl e
  · obtain ⟨-, -, trace, -⟩ := perform_cases op (i.enter s)
    rw [trace, MicroOp.traceAfter]
    split
    · exact .inl (by simp)
    · exact .inr ⟨op.event s.params.devAddr, by simp, .inr ⟨op, _, here, rfl⟩⟩
  · refine response _ _ _ ?_ e
    split <;> rfl

theorem isResponse_event (op : MicroOp) (dev : DevAddr) : (op.event dev).isResponse = false := by cases op <;> rfl

theorem isBus_event (op : MicroOp) (dev : DevAddr) : (op.event dev).isBus = op.isBus := by cases op <;> rfl

theorem isRtc_of_opAt_isBus (here : i.opAt s = some op) (bus : op.isBus = true) : i.isRtc = true := by
  by_contra notRtc
  rw [Bool.not_eq_true] at notRtc
  by_cases bcd : i.isBcd = true
  · simp [opAt_of_isBcd bcd] at here
  · have lcd := isLcd_of_not_isRtc notRtc (by simpa using bcd)
    rcases opAt_of_isLcd lcd here with line | ⟨a, -, -, rfl⟩
    · simp [MicroOp.not_isBus_of_isLine line] at bus
    · cases bus

/-- A step that completes a command. -/
theorem finish_fields (i : Instr) (s : State) :
    (i.finish s).busy = false ∧ (i.finish s).seq = s.seq ∧ (i.finish s).phase = .fresh ∧
    (i.finish s).rsp = { valid := true, status := .ok, results := some (i.results s) } ∧
    (i.finish s).trace = s.trace ++ [.response .ok (some (i.results s))] := by
  unfold Instr.finish
  refine ⟨rfl, ?_, rfl, rfl, ?_⟩ <;> split <;> rfl

/-- Settles O12: a step makes a micro-operation, of which `perform_cases` says what it can do, or responds. -/
theorem commandStepAdvancesWaitsOrResponds : Obligations.CommandStepAdvancesWaitsOrResponds := by
  intro i s t busy h
  rcases exec_next_cases h with ⟨-, rfl⟩ | ⟨-, -, rfl⟩ | ⟨rtc, -, failed, rfl⟩ | ⟨-, op, here, rfl⟩ | ⟨-, -, rfl⟩
  · exact .inr (.inr (.inr (by simp)))
  · exact .inr (.inr (.inr (by simp)))
  · exact .inr (.inr (.inr (by simp [rtc, failed])))
  · obtain ⟨busyKept, rsp, trace, moves⟩ := perform_cases op (i.enter s)
    have recorded : s.phase ≠ .issued → (perform op (i.enter s)).trace = s.trace ++ [op.event s.params.devAddr] :=
      fun notIssued => by rw [trace, MicroOp.traceAfter, if_neg (by simp [notIssued])]; simp
    have traceCases : (perform op (i.enter s)).trace = s.trace ++ [op.event s.params.devAddr] ∨
        (s.phase = .issued ∧ (perform op (i.enter s)).trace = s.trace) := by
      rw [trace, MicroOp.traceAfter]
      split
      next waiting => exact .inr ⟨by simpa using waiting.2, by simp⟩
      next => exact .inl (by simp)
    simp only [enter_busy, enter_rsp, enter_seq, busy] at busyKept rsp moves
    rcases moves with ⟨seq, phase⟩ | ⟨answered, seq, phase⟩ | ⟨bus, seq, phase⟩
    · exact .inl ⟨busyKept, seq, phase, rsp, traceCases.imp_left fun e => ⟨_, isResponse_event _ _, e⟩⟩
    · refine .inr (.inl ⟨busyKept, seq, phase, rsp, by simpa using perform_issued op _ phase, ?_⟩)
      by_cases issued : s.phase = .issued
      · exact .inr ⟨issued, by rw [trace, MicroOp.traceAfter, if_pos (by simp [answered, issued]), enter_trace]⟩
      · exact .inl ⟨issued, _, isResponse_event _ _, recorded issued⟩
    · exact .inr (.inr (.inl ⟨isRtc_of_opAt_isBus here bus, busyKept, seq, phase, rsp,
        traceCases.imp_left fun e => ⟨_, (isBus_event _ _).trans bus, e⟩⟩))
  · obtain ⟨idle, seq, phase, rsp, trace⟩ := finish_fields i s
    exact .inr (.inr (.inr ⟨idle, seq, phase, by rw [rsp], by rw [rsp, trace], by simp [rsp]⟩))

/-- Settles O11: each arm of `exec` answers `next`. -/
theorem everyCommandStepAnswersNext : Obligations.EveryCommandStepAnswersNext := by
  intro i s
  cases i <;> exact ⟨_, rfl⟩

/-! ### What no command writes -/

theorem exec_cmd (h : exec i s = .next t) : t.cmd = s.cmd := by
  rcases exec_next_cases h with ⟨-, rfl⟩ | ⟨-, -, rfl⟩ | ⟨-, -, -, rfl⟩ | ⟨-, op, -, rfl⟩ | ⟨-, -, rfl⟩
  case inr.inr.inr.inr => unfold Instr.finish; split <;> rfl
  all_goals simp

theorem exec_params (h : exec i s = .next t) : t.params = s.params := by
  rcases exec_next_cases h with ⟨-, rfl⟩ | ⟨-, -, rfl⟩ | ⟨-, -, -, rfl⟩ | ⟨-, op, -, rfl⟩ | ⟨-, -, rfl⟩
  case inr.inr.inr.inr => unfold Instr.finish; split <;> rfl
  all_goals simp

theorem finish_env (i : Instr) (s : State) : (i.finish s).env = s.env := by unfold Instr.finish; split <;> rfl

/-- Outside, a command moves at most the bus collaborator. -/
theorem exec_env (h : exec i s = .next t) : ∃ b n, t.env = { s.env with bus := b, draws := n } := by
  rcases exec_next_cases h with ⟨-, rfl⟩ | ⟨-, -, rfl⟩ | ⟨-, -, -, rfl⟩ | ⟨-, op, -, rfl⟩ | ⟨-, -, rfl⟩
  case inr.inr.inr.inl => simpa using perform_env op (i.enter s)
  case inr.inr.inr.inr => exact ⟨_, _, finish_env i s⟩
  all_goals exact ⟨_, _, rfl⟩

/-- Settles O14: no micro-operation and no completion writes them. -/
theorem noCommandWritesOutsideOrOperands : Obligations.NoCommandWritesOutsideOrOperands := by
  intro i s t h
  obtain ⟨b, n, env⟩ := exec_env h
  simp [exec_cmd h, exec_params h, env]

/-! ### Acceptance and the step of the machine -/

theorem accept_eq (w : Word40) (s : State) : accept w s =
    { s with
      busy := true, cmd := w, seq := 0, phase := .fresh, rsp := { s.rsp with valid := false },
      lcdState := if decode w = .instr .lcdInit then .initializing else s.lcdState,
      trace := s.trace ++ [.accept w] } := by
  have lcd := accept_lcdState s w
  unfold accept enterCommand at *
  split
  next init => rw [if_pos (show decode w = .instr .lcdInit from init)]; rfl
  next other => rw [if_neg (show ¬ decode w = .instr .lcdInit from other)]; rfl

theorem step_of_acts_nil (acts : s.env.acts = []) : step s = blockStep s := by simp [step, acts]

theorem blockStep_of_decode (busy : s.busy = true) (dec : decode s.cmd = .instr i) : blockStep s = exec i s := by
  simp [blockStep, busy, commandStep, dec]

theorem step_eq_exec (acts : s.env.acts = []) (busy : s.busy = true) (dec : decode s.cmd = .instr i) :
    step s = exec i s := (step_of_acts_nil acts).trans (blockStep_of_decode busy dec)

theorem step_eq_exec_dropAct {rest : List Act} (acts : s.env.acts = .run :: rest) (busy : s.busy = true)
    (dec : decode s.cmd = .instr i) : step s = exec i s.dropAct := by
  have run : step s = blockStep s.dropAct := by simp [step, acts, applyAct]
  exact run.trans (blockStep_of_decode (s := s.dropAct) busy dec)

theorem tableWord_40 (w : Nat) : tableWord 40 w = BitVec.ofNat 40 w := by
  apply BitVec.eq_of_toNat_eq
  simp [tableWord]

/-- The act `run` held back before an acceptance is used up by the step after it. -/
theorem accept_dropAct_run (w : Word40) (s : State) :
    (accept w (s.withEnv { s.env with acts := .run :: s.env.acts })).dropAct = accept w s := by
  rw [accept_eq, accept_eq]
  rfl

/-- Settles O7: an accepted word is the command the next step runs, after the act `run` where acts wait. -/
theorem stepRunsCommandInProgress : Obligations.StepRunsCommandInProgress := by
  refine ⟨fun _ _ => step_eq_exec, fun _ _ _ => step_eq_exec_dropAct, fun s w i dec => ?_⟩
  cases acts : s.env.acts with
  | nil =>
    have same : s.withFetchWord 40 w = accept (BitVec.ofNat 40 w) s := by
      simp only [State.withFetchWord, tableWord_40, acts]
      rw [← acts]
    rw [same]
    exact step_eq_exec (by simpa using acts) (by simp) (by simpa using dec)
  | cons a rest =>
    have heldBack : s.withFetchWord 40 w =
        accept (BitVec.ofNat 40 w) (s.withEnv { s.env with acts := .run :: s.env.acts }) := by
      simp only [State.withFetchWord, tableWord_40, acts]
      rfl
    rw [heldBack, step_eq_exec_dropAct (rest := s.env.acts) (by simp) (by simp) (by simpa using dec),
      accept_dropAct_run]

theorem step_eq_accept {w : Word40} {rest : List Word40} (acts : s.env.acts = []) (idle : s.busy = false)
    (port : s.env.port = w :: rest) : step s = .next (accept w (s.withEnv { s.env with port := rest })) := by
  rw [step_of_acts_nil acts, blockStep, if_neg (by simp [idle]), idleStep, port]
  rfl

theorem step_of_port_nil (acts : s.env.acts = []) (idle : s.busy = false) (port : s.env.port = []) :
    step s = .next s := by
  rw [step_of_acts_nil acts, blockStep, if_neg (by simp [idle]), idleStep, port]

/-- Settles O8. -/
theorem idleBlockAcceptsPresentedWord : Obligations.IdleBlockAcceptsPresentedWord :=
  ⟨fun _ w _ acts idle port => (step_eq_accept acts idle port).trans (congrArg _ (accept_eq w _)),
    fun _ => step_of_port_nil⟩

/-- Settles O9: of the events a command step can record none is an acceptance. -/
theorem busyBlockLeavesWordsAtPort : Obligations.BusyBlockLeavesWordsAtPort := by
  refine ⟨fun s t busy acts h => ?_, fun s w rest acts => ?_⟩
  · rw [step_of_acts_nil acts, blockStep, if_pos busy] at h
    rcases commandStep_cases h with ⟨i, -, h⟩ | ⟨op, -, rfl⟩
    · obtain ⟨b, n, env⟩ := exec_env h
      refine ⟨by rw [env], exec_cmd h, ?_⟩
      rcases exec_trace h with same | ⟨e, trace, ⟨st, r, rfl⟩ | ⟨op, dev, -, rfl⟩⟩
      · simp [same]
      · simp [trace]
      · rw [trace]
        cases op <;> simp [MicroOp.event]
    · simp
  · simp [step, acts, applyAct, State.dropAct]

/-! ### Reserved words -/

/-- The 242 reserved opcodes (30_encoding.md R80). -/
theorem decode_eq_reserved_iff_ranges (w : Word40) : decode w = .reserved (opField w) ↔
    (0x02 ≤ (opField w).toNat ∧ (opField w).toNat ≤ 0x0F) ∨ (0x15 ≤ (opField w).toNat ∧ (opField w).toNat ≤ 0x1F) ∨
      0x27 ≤ (opField w).toNat := by
  unfold decode
  split
  case h_15 =>
    have bound := (opField w).isLt
    refine iff_of_true rfl ?_
    simp only [imp_false] at *
    omega
  all_goals
    rename_i code
    simp [code]

theorem step_of_reserved {op : Byte} (acts : s.env.acts = []) (busy : s.busy = true)
    (reserved : decode s.cmd = .reserved op) : step s = .next (raise .unimplemented s) := by
  rw [step_of_acts_nil acts, blockStep, if_pos busy, commandStep_of_reserved reserved]

/-- Settles O10: acceptance and then the response, as for any word. -/
theorem reservedOpcodeCompletesUnimplemented : Obligations.ReservedOpcodeCompletesUnimplemented := by
  refine ⟨decode_eq_reserved_iff_ranges, fun s w rest acts idle port reserved => ?_, rfl⟩
  have responded := step_of_reserved (s := accept w (s.withEnv { s.env with port := rest })) (by simpa using acts)
    (by simp) (by simpa using reserved)
  rw [steps_succ 1 (step_eq_accept acts idle port), steps_succ 0 responded, steps_zero]
  rw [accept_eq, if_neg (by simp [reserved])]
  simp [raise, respond, State.record, State.withEnv]

/-! ### The big step and the single steps (R207) -/

/-- Settles O13, by induction on the number of micro-steps. -/
theorem singleStepsAgreeWithBigStep : Obligations.SingleStepsAgreeWithBigStep := by
  intro n
  induction n with
  | zero =>
    intro i s t _ _ _ run
    cases run
    exact ⟨0, le_rfl, steps_zero s, fun _ => rfl⟩
  | succ n ih =>
    intro i s t acts busy dec run
    obtain ⟨u, first⟩ := everyCommandStepAnswersNext i s
    have step : step s = .next u := (step_eq_exec acts busy dec).trans first
    rw [runCommand_succ i n busy first] at run
    cases busyU : u.busy with
    | true =>
      obtain ⟨b, k, env⟩ := exec_env first
      obtain ⟨m, le, others, same⟩ := ih i u t (by rw [env]; exact acts) busyU (by rw [exec_cmd first]; exact dec) run
      exact ⟨m + 1, by omega, (steps_succ m step).trans others, fun busyT => by rw [same busyT]⟩
    | false =>
      rw [runCommand_idle i n busyU] at run
      cases run
      exact ⟨1, by omega, steps_succ 0 step, fun busyT => by simp [busyU] at busyT⟩

end

end Sys2Proof.Machine
end

section
/-! PROOFS. What the commands of each part leave unchanged (40_bcd.md R106, 41_rtc.md R120, 42_lcd.md R160), and that
what they do depends on their own part alone (00_scope.md R11): each operation keeps the agreement of two states on one
part. -/

namespace Sys2Proof.Machine

/-! ### One step of a command, by the part it belongs to -/

section
variable {i : Instr} {s t : State} {op : MicroOp}

theorem exec_cases_of_isBcd (bcd : i.isBcd = true) (h : exec i s = .next t) : ∃ st r, t = respond st r s := by
  rcases exec_next_cases h with ⟨-, rfl⟩ | ⟨needs, -, -⟩ | ⟨rtc, -, -, -⟩ | ⟨-, op, here, -⟩ | ⟨-, -, rfl⟩
  · exact ⟨_, _, rfl⟩
  · cases i <;> cases bcd <;> cases needs
  · cases i <;> cases bcd <;> cases rtc
  · simp [opAt_of_isBcd bcd] at here
  · have notInit : i ≠ .lcdInit := by rintro rfl; cases bcd
    exact ⟨_, _, congrArg _ (if_neg notInit)⟩

theorem ne_lcdInit_of_isRtc (rtc : i.isRtc = true) : i ≠ .lcdInit := by rintro rfl; cases rtc

theorem enter_of_isRtc (rtc : i.isRtc = true) (s : State) : i.enter s = s :=
  enter_eq_self (ne_lcdInit_of_isRtc rtc) (by rintro a rfl; cases rtc) s

theorem finish_eq_respondOk (notInit : i ≠ .lcdInit) (s : State) : i.finish s = respondOk (i.results s) s :=
  congrArg _ (if_neg notInit)

theorem exec_cases_of_isRtc (rtc : i.isRtc = true) (h : exec i s = .next t) :
    (∃ st r, t = respond st r s) ∨ ∃ op, i.opAt s = some op ∧ t = perform op s := by
  rcases exec_next_cases h with ⟨-, rfl⟩ | ⟨-, -, rfl⟩ | ⟨-, -, -, rfl⟩ | ⟨-, op, here, rfl⟩ | ⟨-, -, rfl⟩
  · exact .inl ⟨_, _, rfl⟩
  · exact .inl ⟨_, _, rfl⟩
  · exact .inl ⟨_, _, rfl⟩
  · exact .inr ⟨op, here, by rw [enter_of_isRtc rtc]⟩
  · exact .inl ⟨_, _, finish_eq_respondOk (ne_lcdInit_of_isRtc rtc) s⟩

theorem exec_cases_of_isLcd (lcd : i.isLcd = true) (h : exec i s = .next t) :
    (i.needsReady = true ∧ s.lcdState ≠ .ready ∧ t = raise .notReady s) ∨
    (Going i s ∧ ∃ op, i.opAt s = some op ∧ t = perform op (i.enter s)) ∨
    (Going i s ∧ i.opAt s = none ∧ t = i.finish s) := by
  rcases exec_next_cases h with ⟨illegal, -⟩ | notReady | ⟨rtc, -, -, -⟩ | step | complete
  · simp [operandsLegal_of_isLcd lcd] at illegal
  · exact .inl notReady
  · simp [isRtc_of_isLcd lcd] at rtc
  · exact .inr (.inl step)
  · exact .inr (.inr complete)

theorem not_isBus_of_opAt_isLcd (lcd : i.isLcd = true) (here : i.opAt s = some op) : op.isBus = false := by
  rcases opAt_of_isLcd lcd here with line | ⟨a, -, -, rfl⟩
  · exact MicroOp.not_isBus_of_isLine line
  · rfl

/-! ### The frames -/

/-- Settles O15. -/
theorem bcdCommandsFrame : Obligations.BcdCommandsFrame := by
  intro i s t bcd h
  obtain ⟨st, r, rfl⟩ := exec_cases_of_isBcd bcd h
  simp

/-- Only a `BusRead` into it writes `scratch[3]`. -/
theorem perform_scratch_b3 (h : op ≠ .busRead .scratch3) (s : State) :
    (perform op s).scratch.b3 = s.scratch.b3 := by
  by_cases read : ∃ d, op = .busRead d
  · obtain ⟨d, rfl⟩ := read
    have notLast : d ≠ .scratch3 := by rintro rfl; exact h rfl
    rw [perform]
    by_cases hung : s.env.busHung = true
    · simp [transact_hung _ s _ hung]
    · rw [Bool.not_eq_true] at hung
      cases answer : (s.env.answer s.params.devAddr (.read s.params.devAddr 1)).1 with
      | ok b =>
        rw [transact_ok _ s _ b hung answer]
        cases d with
        | scratch3 => exact absurd rfl notLast
        | _ => simp
      | fail => simp [transact_fail _ s _ hung answer]
  · rw [perform_scratch op s fun d e => absurd ⟨d, e⟩ read]

/-- Settles O16: what a bus transaction can write is the byte it reads into, which is the command's own. -/
theorem rtcCommandsFrame : Obligations.RtcCommandsFrame := by
  intro i s t rtc h
  obtain ⟨b, n, env⟩ := exec_env h
  refine ⟨exec_cmd h, ?_⟩
  rcases exec_cases_of_isRtc rtc h with ⟨st, r, rfl⟩ | ⟨op, here, rfl⟩
  · simpa using ⟨s.env.bus, s.env.draws, rfl⟩
  have lines : op.isLine = false := isLine_of_opAt_of_not_isLcd (isLcd_of_isRtc rtc) here
  have reads : ∀ d, op = .busRead d → i.readsInto d = true := by
    rcases opAt_of_isRtc rtc here with rfl | ⟨bytes, rfl⟩ | ⟨d, rfl, own⟩ <;> simp_all
  have notMem : ∀ a, op ≠ .memRead a := by
    rcases opAt_of_isRtc rtc here with rfl | ⟨bytes, rfl⟩ | ⟨d, rfl, -⟩ <;> simp
  refine ⟨perform_lcdState op s, perform_lines_of_not_isLine lines, perform_strPtr op s, perform_held op s notMem,
    perform_params op s, fun notTime notDate => ?_, fun time => ?_, fun notInit => ?_, fun a => by rw [env], b, n, env⟩
  · refine perform_scratch op s fun d e => ?_
    have own := reads d e
    cases i <;> simp_all [Instr.readsInto]
  · refine perform_scratch_b3 (fun e => ?_) s
    have own := reads _ e
    simp [time, Instr.readsInto] at own
  · refine perform_readBack op s fun e => ?_
    have own := reads _ e
    cases i <;> simp_all [Instr.readsInto]

/-- Settles O17: what a command of the LCD part can write is a line, or in `LCD_STR` the byte and the address read. -/
theorem lcdCommandsFrame : Obligations.LcdCommandsFrame := by
  intro i s t lcd h
  have noBus : ∀ e : Event, e.isBus = true → e ∉ t.trace.drop s.trace.length := by
    rcases exec_trace h with same | ⟨e, trace, ⟨st, r, rfl⟩ | ⟨op, dev, here, rfl⟩⟩
    · simp [same]
    · rintro e bus
      rw [trace]
      simp only [List.drop_left, List.mem_singleton]
      rintro rfl
      cases bus
    · rintro e bus
      rw [trace]
      simp only [List.drop_left, List.mem_singleton]
      rintro rfl
      rw [isBus_event, not_isBus_of_opAt_isLcd lcd here] at bus
      cases bus
  refine ⟨exec_cmd h, ?_⟩
  rcases exec_cases_of_isLcd lcd h with ⟨needs, notReady, rfl⟩ | ⟨going, op, here, rfl⟩ | ⟨going, -, rfl⟩
  · exact ⟨rfl, rfl, rfl, rfl, fun _ => rfl, fun _ => ⟨rfl, rfl⟩, fun _ _ => ⟨rfl, rfl, rfl⟩, fun _ => rfl, noBus⟩
  · have notBus := not_isBus_of_opAt_isLcd lcd here
    have notRead : ∀ d, op ≠ .busRead d := by rintro d rfl; cases notBus
    have env : (perform op (i.enter s)).env = s.env := (perform_env_same op _ notBus).trans (enter_env i s)
    refine ⟨?_, ?_, exec_params h, env, fun notInit => ?_, fun notStr => ?_, fun needs notReady => ?_,
      fun a => by rw [env], noBus⟩
    · rw [perform_scratch op _ fun d e => absurd e (notRead d), enter_scratch]
    · rw [perform_readBack op _ (notRead _), enter_readBack]
    · rw [perform_lcdState, enter_lcdState, if_neg notInit]
    · have strPtr : (i.enter s).strPtr = s.strPtr := by
        rcases enter_cases i s with e | ⟨-, e⟩ | ⟨a, str, -⟩
        exacts [by rw [e], by rw [e, setLcd_strPtr], absurd str (notStr a)]
      have notMem : ∀ a, op ≠ .memRead a := by
        rintro a rfl
        rcases opAt_of_isLcd lcd here with line | ⟨a', str, -⟩
        · cases line
        · exact notStr a' str
      exact ⟨(perform_strPtr op _).trans strPtr, (perform_held op _ notMem).trans (enter_held i s)⟩
    · exact absurd (going.ready needs) notReady
  · have done : ∀ u : State, u = (if i = .lcdInit then s.setLcd .ready else s) → u.scratch = s.scratch ∧
        u.readBack = s.readBack ∧ u.strPtr = s.strPtr ∧ u.held = s.held ∧ u.lines = s.lines := by
      rintro u rfl
      split <;> simp
    obtain ⟨scratch, readBack, strPtr, held, lines⟩ := done _ rfl
    exact ⟨scratch, readBack, exec_params h, finish_env i s,
      fun notInit => by rw [finish_eq_respondOk notInit, respondOk_lcdState], fun _ => ⟨strPtr, held⟩,
      fun _ _ => ⟨lines, strPtr, held⟩, fun a => by rw [finish_env], noBus⟩

end

/-! ### The RTC part and the sequencer in two states -/

/-- The answer of the bus collaborator depends on itself alone. -/
theorem Env.answer_congr {e e' : Env} (bus : e.bus = e'.bus) (draws : e.draws = e'.draws) (own : DevAddr) (q : BusReq) :
    (e.answer own q).1 = (e'.answer own q).1 ∧ (e.answer own q).2.bus = (e'.answer own q).2.bus ∧
    (e.answer own q).2.draws = (e'.answer own q).2.draws := by
  unfold Env.answer
  rw [bus]
  split <;> simp_all

/-- Two states agree on what the RTC part uses, the sequencer and the constants. -/
structure RtcAgree (s s' : State) : Prop where
  seq : s.seq = s'.seq
  scratch : s.scratch = s'.scratch
  readBack : s.readBack = s'.readBack
  phase : s.phase = s'.phase
  params : s.params = s'.params
  bus : s.env.bus = s'.env.bus
  draws : s.env.draws = s'.env.draws
  busHung : s.env.busHung = s'.env.busHung
  busy : s.busy = s'.busy
  rsp : s.rsp = s'.rsp

/-- Two states agree on what the LCD part uses, the sequencer and the constants. -/
structure LcdAgree (s s' : State) : Prop where
  seq : s.seq = s'.seq
  lcdState : s.lcdState = s'.lcdState
  lines : s.lines = s'.lines
  strPtr : s.strPtr = s'.strPtr
  held : s.held = s'.held
  phase : s.phase = s'.phase
  params : s.params = s'.params
  mem : s.env.mem = s'.env.mem
  delayHung : s.env.delayHung = s'.env.delayHung
  busy : s.busy = s'.busy
  rsp : s.rsp = s'.rsp

section
variable {i : Instr} {s s' t t' : State} {op : MicroOp}

/-! What each operation of the RTC part does to two states that agree. -/

theorem RtcAgree.issue (h : RtcAgree s s') (e : Event) : RtcAgree (s.issue e) (s'.issue e) := by
  obtain ⟨⟩ := h; constructor <;> simp [*]

theorem RtcAgree.await (h : RtcAgree s s') : RtcAgree s.await s'.await := by
  obtain ⟨⟩ := h; constructor <;> simp [*]

theorem RtcAgree.advance (h : RtcAgree s s') : RtcAgree s.advance s'.advance := by
  obtain ⟨⟩ := h; constructor <;> simp [*]

theorem RtcAgree.failOp (h : RtcAgree s s') : RtcAgree s.failOp s'.failOp := by
  obtain ⟨⟩ := h; constructor <;> simp [*]

theorem RtcAgree.record (h : RtcAgree s s') (e : Event) : RtcAgree (s.record e) (s'.record e) := by
  obtain ⟨⟩ := h; constructor <;> simp [*]

theorem RtcAgree.respond (h : RtcAgree s s') (st : Status) (r : Option Results) :
    RtcAgree (respond st r s) (respond st r s') := by
  obtain ⟨⟩ := h; constructor <;> simp [*]

theorem RtcAgree.keep (h : RtcAgree s s') (d : ReadDest) (b : Byte) : RtcAgree (s.keep d b) (s'.keep d b) := by
  obtain ⟨⟩ := h; cases d <;> constructor <;> simp [*]

theorem RtcAgree.withEnv (h : RtcAgree s s') {e e' : Env} (bus : e.bus = e'.bus) (draws : e.draws = e'.draws)
    (busHung : e.busHung = e'.busHung) : RtcAgree (s.withEnv e) (s'.withEnv e') := by
  obtain ⟨⟩ := h; constructor <;> simp [*]

theorem RtcAgree.transact (h : RtcAgree s s') (q : BusReq) (f : Byte → State → State)
    (delivers : ∀ b u u', RtcAgree u u' → RtcAgree (f b u) (f b u')) : RtcAgree (transact q f s) (transact q f s') := by
  by_cases hung : s.env.busHung = true
  · rw [transact_hung q s f hung, transact_hung q s' f (h.busHung ▸ hung)]
    exact (h.issue _).await
  rw [Bool.not_eq_true] at hung
  obtain ⟨same, bus, draws⟩ := Env.answer_congr h.bus h.draws s.params.devAddr q
  have answered := (h.issue q.event).withEnv bus draws (by simpa using h.busHung)
  have hung' : s'.env.busHung = false := h.busHung ▸ hung
  rw [h.params] at same answered
  cases answer : (s'.env.answer s'.params.devAddr q).1 with
  | ok b =>
    rw [transact_ok q s f b hung (h.params ▸ same.trans answer), transact_ok q s' f b hung' answer, h.params]
    exact (delivers b _ _ answered).advance
  | fail =>
    rw [transact_fail q s f hung (h.params ▸ same.trans answer), transact_fail q s' f hung' answer, h.params]
    exact answered.failOp

theorem RtcAgree.perform (h : RtcAgree s s')
    (rtcOp : op = .busInit ∨ (∃ bytes, op = .busWrite bytes) ∨ ∃ d, op = .busRead d ∧ i.readsInto d = true) :
    RtcAgree (perform op s) (perform op s') := by
  rcases rtcOp with rfl | ⟨bytes, rfl⟩ | ⟨d, rfl, -⟩
  · exact (h.record _).advance
  · rw [Machine.perform, Machine.perform, h.params]
    exact h.transact _ _ fun _ _ _ agree => agree
  · rw [Machine.perform, Machine.perform, h.params]
    exact h.transact _ _ fun b _ _ agree => agree.keep d b

/-! What each operation of the LCD part does to two states that agree. -/

theorem LcdAgree.issue (h : LcdAgree s s') (e : Event) : LcdAgree (s.issue e) (s'.issue e) := by
  obtain ⟨⟩ := h; constructor <;> simp [*]

theorem LcdAgree.await (h : LcdAgree s s') : LcdAgree s.await s'.await := by
  obtain ⟨⟩ := h; constructor <;> simp [*]

theorem LcdAgree.advance (h : LcdAgree s s') : LcdAgree s.advance s'.advance := by
  obtain ⟨⟩ := h; constructor <;> simp [*]

theorem LcdAgree.record (h : LcdAgree s s') (e : Event) : LcdAgree (s.record e) (s'.record e) := by
  obtain ⟨⟩ := h; constructor <;> simp [*]

theorem LcdAgree.setLine (h : LcdAgree s s') (l : Line) (v : LineLevel) :
    LcdAgree (s.setLine l v) (s'.setLine l v) := by
  obtain ⟨⟩ := h; constructor <;> simp [*]

theorem LcdAgree.setLcd (h : LcdAgree s s') (v : LcdState) : LcdAgree (s.setLcd v) (s'.setLcd v) := by
  obtain ⟨⟩ := h; constructor <;> simp [*]

theorem LcdAgree.respond (h : LcdAgree s s') (st : Status) (r : Option Results) :
    LcdAgree (respond st r s) (respond st r s') := by
  obtain ⟨⟩ := h; constructor <;> simp [*]

theorem LcdAgree.delay (h : LcdAgree s s') (e : Event) : LcdAgree (delay e s) (delay e s') := by
  by_cases hung : s.env.delayHung = true
  · rw [delay_hung s e hung, delay_hung s' e (h.delayHung ▸ hung)]
    exact (h.issue e).await
  · rw [Bool.not_eq_true] at hung
    rw [delay_returns s e hung, delay_returns s' e (h.delayHung ▸ hung)]
    exact (h.issue e).advance

theorem LcdAgree.memRead (h : LcdAgree s s') (a : StrAddr) :
    LcdAgree (perform (.memRead a) s) (perform (.memRead a) s') := by
  obtain ⟨⟩ := h; constructor <;> simp [Machine.perform, *]

theorem LcdAgree.lineOp (h : LcdAgree s s') (line : op.isLine = true) : LcdAgree (perform op s) (perform op s') := by
  cases op <;> cases line
  case lineCfg l => exact ((h.setLine l _).record _).advance
  case lineWrite l v => exact ((h.setLine l _).record _).advance
  case delayUs n => exact h.delay _
  case delayMs n => exact h.delay _

theorem LcdAgree.perform (h : LcdAgree s s') (lcdOp : op.isLine = true ∨ ∃ a, op = .memRead a) :
    LcdAgree (perform op s) (perform op s') := by
  rcases lcdOp with line | ⟨a, rfl⟩
  exacts [h.lineOp line, h.memRead a]

theorem LcdAgree.nextStrPtr (h : LcdAgree s s') (a : StrAddr) : nextStrPtr a s = nextStrPtr a s' := by
  rw [Machine.nextStrPtr, h.seq, h.strPtr]; rfl

theorem LcdAgree.opAt (h : LcdAgree s s') (i : Instr) : i.opAt s = i.opAt s' := by
  by_cases str : ∃ a, i = .lcdStr a
  · obtain ⟨a, rfl⟩ := str
    rw [Instr.opAt, Instr.opAt, strOpAt, strOpAt, h.nextStrPtr, h.seq, h.held, h.params]
  · rw [opAt_eq_getElem? (not_exists.mp str), opAt_eq_getElem? (not_exists.mp str), h.params, h.seq]

theorem LcdAgree.enter (h : LcdAgree s s') (i : Instr) : LcdAgree (i.enter s) (i.enter s') := by
  cases i
  case lcdInit => exact h.setLcd _
  case lcdStr a =>
    by_cases head : s.seq % strPeriod = 0
    · rw [enter_lcdStr_head a head, enter_lcdStr_head a (h.seq ▸ head), h.nextStrPtr]
      obtain ⟨⟩ := h; constructor <;> simp [*]
    · rwa [enter_lcdStr_past a head, enter_lcdStr_past a (h.seq ▸ head)]
  all_goals exact h

/-! ### The traces of two states that agree -/

/-- A micro-operation appends the same to the trace in two states that agree on the phase and the constants. -/
theorem perform_trace_congr (op : MicroOp) (phase : s.phase = s'.phase) (params : s.params = s'.params) :
    ∃ evs, (perform op s).trace = s.trace ++ evs ∧ (perform op s').trace = s'.trace ++ evs := by
  obtain ⟨-, -, trace, -⟩ := perform_cases op s
  obtain ⟨-, -, trace', -⟩ := perform_cases op s'
  rw [trace, trace', MicroOp.traceAfter, MicroOp.traceAfter, phase, params]
  split
  · exact ⟨[], by simp⟩
  · exact ⟨_, rfl, rfl⟩

theorem exec_congr_of_isRtc (rtc : i.isRtc = true) (agree : RtcAgree s s') (h : exec i s = .next t)
    (h' : exec i s' = .next t') : RtcAgree t t' ∧ ∃ evs, t.trace = s.trace ++ evs ∧ t'.trace = s'.trace ++ evs := by
  have unique : ∀ {u}, exec i s' = .next u → t' = u := fun run => Host.Outcome.next.inj (h'.symm.trans run)
  have notStr : ∀ a, i ≠ .lcdStr a := by rintro a rfl; cases rtc
  have notReady : i.needsReady = false := by cases i <;> cases rtc <;> rfl
  have going' : Going i s → Going i s' := fun going =>
    ⟨going.legal, by simp [notReady], fun _ => agree.phase ▸ going.unfailed rtc⟩
  have opAt : i.opAt s' = i.opAt s := by rw [opAt_eq_getElem? notStr, opAt_eq_getElem? notStr, agree.params, agree.seq]
  rcases exec_next_cases h with ⟨illegal, rfl⟩ | ⟨needs, -, -⟩ | ⟨-, legal, failed, rfl⟩ | ⟨going, op, here, rfl⟩ |
    ⟨going, none, rfl⟩
  · rw [unique (exec_of_not_operandsLegal illegal s')]
    exact ⟨agree.respond _ _, _, rfl, rfl⟩
  · simp [notReady] at needs
  · rw [unique (exec_of_failed rtc legal (agree.phase ▸ failed))]
    exact ⟨agree.respond _ _, _, rfl, rfl⟩
  · have run := (exec_of_going (going' going)).trans (congrArg _ (goOn_of_opAt (opAt.trans here)))
    rw [unique run, enter_of_isRtc rtc, enter_of_isRtc rtc]
    exact ⟨agree.perform (opAt_of_isRtc rtc here), perform_trace_congr op agree.phase agree.params⟩
  · have run := (exec_of_going (going' going)).trans (congrArg _ (goOn_of_opAt_none (opAt.trans none)))
    have results : i.results s' = i.results s := by
      cases i <;> cases rtc <;> simp [Instr.results, agree.readBack, agree.scratch]
    rw [unique run, finish_eq_respondOk (ne_lcdInit_of_isRtc rtc), finish_eq_respondOk (ne_lcdInit_of_isRtc rtc),
      results]
    exact ⟨agree.respond _ _, _, rfl, rfl⟩

theorem exec_congr_of_isLcd (lcd : i.isLcd = true) (agree : LcdAgree s s') (h : exec i s = .next t)
    (h' : exec i s' = .next t') : LcdAgree t t' ∧ ∃ evs, t.trace = s.trace ++ evs ∧ t'.trace = s'.trace ++ evs := by
  have unique : ∀ {u}, exec i s' = .next u → t' = u := fun run => Host.Outcome.next.inj (h'.symm.trans run)
  have going' : Going i s → Going i s' := fun going =>
    ⟨going.legal, fun needs => agree.lcdState ▸ going.ready needs, by simp [isRtc_of_isLcd lcd]⟩
  rcases exec_cases_of_isLcd lcd h with ⟨needs, notReady, rfl⟩ | ⟨going, op, here, rfl⟩ | ⟨going, none, rfl⟩
  · rw [unique (exec_of_not_ready needs (agree.lcdState ▸ notReady))]
    exact ⟨agree.respond _ _, _, rfl, rfl⟩
  · have here' : i.opAt s' = some op := (agree.opAt i).symm.trans here
    rw [unique ((exec_of_going (going' going)).trans (congrArg _ (goOn_of_opAt here')))]
    refine ⟨(agree.enter i).perform ?_, ?_⟩
    · exact (opAt_of_isLcd lcd here).imp_right fun ⟨_, _, _, e⟩ => ⟨_, e⟩
    · simpa using perform_trace_congr op (agree.enter i).phase (agree.enter i).params
  · have none' : i.opAt s' = Option.none := (agree.opAt i).symm.trans none
    rw [unique ((exec_of_going (going' going)).trans (congrArg _ (goOn_of_opAt_none none')))]
    have results : i.results s' = i.results s := by cases i <;> cases lcd <;> rfl
    obtain ⟨-, -, -, -, trace⟩ := finish_fields i s
    obtain ⟨-, -, -, -, trace'⟩ := finish_fields i s'
    rw [results] at trace'
    refine ⟨?_, _, trace, trace'⟩
    unfold Instr.finish
    rw [results]
    split
    · exact (agree.setLcd _).respond _ _
    · exact agree.respond _ _

/-- Settles O37. -/
theorem rtcAndLcdShareNoState : Obligations.RtcAndLcdShareNoState := by
  constructor
  · intro i s s' t t' rtc seq scratch readBack phase params bus draws busHung busy rsp h h'
    obtain ⟨agree, traces⟩ :=
      exec_congr_of_isRtc rtc ⟨seq, scratch, readBack, phase, params, bus, draws, busHung, busy, rsp⟩ h h'
    exact ⟨agree.busy, agree.seq, agree.phase, agree.rsp, agree.scratch, agree.readBack, agree.bus, agree.draws, traces⟩
  · intro i s s' t t' lcd seq lcdState lines strPtr held phase params mem delayHung busy rsp h h'
    obtain ⟨agree, traces⟩ :=
      exec_congr_of_isLcd lcd ⟨seq, lcdState, lines, strPtr, held, phase, params, mem, delayHung, busy, rsp⟩ h h'
    exact ⟨agree.busy, agree.seq, agree.phase, agree.rsp, agree.lcdState, agree.lines, agree.strPtr, agree.held, traces⟩

end

end Sys2Proof.Machine
end

section
/-! PROOFS. Single steps of a command: the step that an error completes (60_exceptions.md R222, R224), the event of
every position of a list (43_sequencer.md R203) and of the loop of `LCD_STR` (42_lcd.md R169), and the step that waits
for a silent collaborator (43_sequencer.md R208). -/

namespace Sys2Proof.Machine

section
variable {i : Instr} {s t : State} {op : MicroOp} {p : Params} {evs : List Event}

/-! ### Completions with an error -/

/-- Settles O27. -/
theorem invalidFieldsWriteNothing : Obligations.InvalidFieldsWriteNothing := by
  rintro i s (⟨a, b, c, d, rfl, invalid⟩ | ⟨a, b, c, d, rfl, invalid⟩)
  · exact exec_of_not_operandsLegal (i := .rtcSetTime a b c d) invalid s
  · exact exec_of_not_operandsLegal (i := .rtcSetDate a b c d) invalid s

/-- Settles O38. -/
theorem notReadyCommandsDoNothing : Obligations.NotReadyCommandsDoNothing := fun _ _ => exec_of_not_ready

/-! ### The events of the lists -/

theorem sub_one_eq_add_255 (c : Byte) : c - 1#8 = c + 255#8 := by
  rw [BitVec.sub_eq_add_neg]; rfl

/-- The micro-operations of a command make the events the spec's tables list. -/
theorem ops_events (legal : i.operandsLegal = true) (h : commandEvents p i = some evs) :
    (i.ops p).map (MicroOp.event p.devAddr) = evs := by
  have settled : ∀ b, (sendByteOps p false b ++ [MicroOp.delayMs p.tSettleMs]).map (MicroOp.event p.devAddr) =
      byteEvents p false b ++ [.delayMs p.tSettleMs] := fun b => by rw [List.map_append, sendByteOps_events]; rfl
  cases i
  case rtcSetTime =>
    cases h
    exact congrArg (List.map _) (ops_rtcSetTime legal)
  case rtcSetDate =>
    cases h
    exact congrArg (List.map _) (ops_rtcSetDate legal)
  case lcdInit => cases h; exact lcdInitOps_events p _
  case lcdCmd => cases h; exact sendByteOps_events ..
  case lcdChar => cases h; exact sendByteOps_events ..
  case lcdStr => cases h
  case lcdHome => cases h; exact settled _
  case lcdClear => cases h; exact settled _
  case lcdCursor row column =>
    change (cursorOps p row column).map _ = evs
    simp only [commandEvents] at h
    simp only [cursorOps, cursorCmd, sub_one_eq_add_255]
    split at h
    next first => cases h; simp [first, sendByteOps_events]
    next notFirst =>
      split at h
      next second => cases h; simp [second, sendByteOps_events]
      next notSecond => cases h; simp [notFirst, notSecond]
  all_goals cases h; rfl

theorem ne_lcdStr_of_commandEvents (h : commandEvents p i = some evs) (a : StrAddr) : i ≠ .lcdStr a := by
  rintro rfl; cases h

/-- At a position of its list of events a command is at the micro-operation that makes the event. -/
theorem opAt_of_event {e : Event} (legal : i.operandsLegal = true) (h : commandEvents s.params i = some evs)
    (here : evs[s.seq]? = some e) : ∃ op, i.opAt s = some op ∧ op.event s.params.devAddr = e := by
  rw [← ops_events legal h, List.getElem?_map, Option.map_eq_some_iff] at here
  rwa [opAt_eq_getElem? (ne_lcdStr_of_commandEvents h)]

/-- The lines move as the event of the micro-operation says. -/
theorem perform_lines_event (op : MicroOp) (s : State) (dev : DevAddr) :
    (perform op s).lines = (op.event dev).moveLines s.lines := by
  rw [perform_lines]
  cases op <;> rfl

theorem perform_trace_of_not_issued (notIssued : s.phase ≠ .issued) (op : MicroOp) :
    (perform op s).trace = s.trace ++ [op.event s.params.devAddr] := by
  obtain ⟨-, -, trace, -⟩ := perform_cases op s
  rw [trace, MicroOp.traceAfter, if_neg (by simp [notIssued])]

theorem transact_of_answer {q : BusReq} {b : Byte} {e : Env} (hung : s.env.busHung = false)
    (answer : s.env.answer s.params.devAddr q = (.ok b, e)) (f : Byte → State → State) :
    transact q f s = (f b ((s.issue q.event).withEnv e)).advance := by
  rw [transact_ok q s f b hung (by rw [answer]), answer]

theorem transact_script {b : Byte} {rest : List BusAnswer} (hung : s.env.busHung = false)
    (bus : s.env.bus = .script (.ok b :: rest)) (q : BusReq) (f : Byte → State → State) :
    transact q f s = (f b ((s.issue q.event).withEnv { s.env with bus := .script rest })).advance :=
  transact_of_answer hung (by rw [Env.answer, bus]) f

/-- A micro-operation whose collaborator answers is complete, a transaction with one answer of the script used. -/
theorem perform_of_script {b : Byte} {rest : List BusAnswer} (busHung : s.env.busHung = false)
    (delayHung : s.env.delayHung = false) (bus : s.env.bus = .script (.ok b :: rest)) (op : MicroOp) :
    (perform op s).seq = s.seq + 1 ∧ (perform op s).phase = .fresh ∧
    (perform op s).env = if op.isBus = true then { s.env with bus := .script rest } else s.env := by
  cases op
  case busWrite => simp [perform, transact_script busHung bus, MicroOp.isBus]
  case busRead => simp [perform, transact_script busHung bus, MicroOp.isBus]
  case delayUs => simp [perform, delay_returns s _ delayHung, MicroOp.isBus]
  case delayMs => simp [perform, delay_returns s _ delayHung, MicroOp.isBus]
  all_goals simp [perform, MicroOp.isBus]

/-- Settles O43. -/
theorem everyPositionMakesItsEvent : Obligations.EveryPositionMakesItsEvent := by
  intro i s evs b rest events legal ready fresh busHung delayHung bus
  have going : Going i s := ⟨legal, ready, fun _ => by simp [fresh]⟩
  refine ⟨fun e here => ?_, fun past => ?_⟩
  · obtain ⟨op, opAt, rfl⟩ := opAt_of_event legal events here
    obtain ⟨seq, phase, env⟩ := perform_of_script (s := i.enter s) (by simpa) (by simpa) (by simpa using bus) op
    obtain ⟨busy, rsp, -⟩ := perform_cases op (i.enter s)
    have trace := perform_trace_of_not_issued (s := i.enter s) (by simp [fresh]) op
    have lines := perform_lines_event op (i.enter s) s.params.devAddr
    rw [isBus_event]
    refine ⟨_, (exec_of_going going).trans (congrArg _ (goOn_of_opAt opAt)), ?_⟩
    simp only [enter_seq, enter_env, enter_busy, enter_rsp, enter_trace, enter_lines, enter_params] at *
    exact ⟨trace, seq, busy, phase, rsp, lines, (perform_lcdState ..).trans (enter_lcdState i s), env⟩
  · have none : i.opAt s = none := by
      rw [opAt_eq_getElem? (ne_lcdStr_of_commandEvents events), List.getElem?_eq_none_iff]
      simpa [← ops_events legal events] using past
    obtain ⟨idle, -, -, rsp, trace⟩ := finish_fields i s
    refine ⟨_, _, (exec_of_going going).trans (congrArg _ (goOn_of_opAt_none none)), idle, rsp, trace, ?_, ?_,
      finish_env i s⟩
    · unfold Instr.finish; split <;> rfl
    · unfold Instr.finish; split <;> rfl

/-! ### The loop of `LCD_STR` -/

theorem going_lcdStr (ready : s.lcdState = .ready) (a : StrAddr) : Going (.lcdStr a) s :=
  ⟨rfl, fun _ => ready, fun rtc => by cases rtc⟩

theorem exec_lcdStr_head (ready : s.lcdState = .ready) {addr : StrAddr} (head : s.seq % 19 = 0) :
    exec (.lcdStr addr) s = .next
      { s with seq := s.seq + 1, phase := .fresh, strPtr := nextStrPtr addr s,
               held := Memory.read s.env.mem (nextStrPtr addr s),
               trace := s.trace ++ [.memRead (nextStrPtr addr s)] } := by
  rw [exec_of_going (going_lcdStr ready addr), goOn_of_opAt (opAt_lcdStr_head addr head), enter_lcdStr_head addr head]
  rfl

theorem exec_lcdStr_zero (ready : s.lcdState = .ready) {addr : StrAddr} (past : s.seq % 19 ≠ 0)
    (zero : s.held = 0x00#8) : exec (.lcdStr addr) s = .next (respondOk Results.zero s) := by
  obtain ⟨k, pos⟩ := Nat.exists_eq_succ_of_ne_zero past
  have none : (Instr.lcdStr addr).opAt s = none := by rw [opAt_lcdStr_past addr pos, if_pos zero]
  rw [exec_of_going (going_lcdStr ready addr), goOn_of_opAt_none none]
  rfl

/-- Past the head of the loop `LCD_STR` is at the micro-operation that makes the event of the byte held. -/
theorem opAt_lcdStr_of_event {addr : StrAddr} {k : Nat} {e : Event} (pos : s.seq % 19 = k + 1)
    (nonzero : s.held ≠ 0x00#8) (here : (byteEvents s.params true s.held)[k]? = some e) :
    ∃ op, op.isLine = true ∧ (Instr.lcdStr addr).opAt s = some op ∧ op.event s.params.devAddr = e := by
  rw [← sendByteOps_events s.params s.params.devAddr, List.getElem?_map, Option.map_eq_some_iff] at here
  obtain ⟨op, here, rfl⟩ := here
  exact ⟨op, sendByteOps_isLine _ _ _ _ (List.mem_of_getElem? here),
    by rw [opAt_lcdStr_past addr pos, if_neg nonzero, here], rfl⟩

theorem exec_lcdStr_char (ready : s.lcdState = .ready) (fresh : s.phase = .fresh) (delayHung : s.env.delayHung = false)
    {addr : StrAddr} {k : Nat} {e : Event} (pos : s.seq % 19 = k + 1) (nonzero : s.held ≠ 0x00#8)
    (here : (byteEvents s.params true s.held)[k]? = some e) : exec (.lcdStr addr) s = .next
      { s with seq := s.seq + 1, lines := e.moveLines s.lines, trace := s.trace ++ [e] } := by
  obtain ⟨op, line, opAt, rfl⟩ := opAt_lcdStr_of_event (addr := addr) pos nonzero here
  have pastHead : s.seq % strPeriod ≠ 0 := fun head => by
    rw [show s.seq % 19 = 0 from head] at pos
    cases pos
  rw [exec_of_going (going_lcdStr ready addr), goOn_of_opAt opAt, enter_lcdStr_past addr pastHead,
    perform_line op line s fresh delayHung s.params.devAddr]

/-- Settles O44. -/
theorem lcdStrStepInItsLoop : Obligations.LcdStrStepInItsLoop := by
  intro addr s ready
  refine ⟨fun head a isNext => ?_, exec_lcdStr_zero ready, fun nonzero fresh delayHung k e pos here =>
    exec_lcdStr_char ready fresh delayHung pos nonzero here⟩
  rw [exec_lcdStr_head ready head, show a = nextStrPtr addr s from isNext]

/-! ### Silent collaborators (R208) -/

/-- Where its collaborator stays silent, a micro-operation that waits changes nothing. -/
theorem perform_eq_self_of_hung (issued : s.phase = .issued)
    (hung : op.isBus = true ∧ s.env.busHung = true ∨
      (op.event s.params.devAddr).isDelay = true ∧ s.env.delayHung = true) : perform op s = s := by
  have waits : ∀ e, (s.issue e).await = s := fun e => by
    rw [State.issue, if_pos issued, State.await, ← issued]
  rcases hung with ⟨bus, hung⟩ | ⟨isDelay, hung⟩
  · cases op <;> cases bus <;> rw [perform, transact_hung _ s _ hung, waits]
  · cases op <;> cases isDelay <;> rw [perform, delay_hung s _ hung, waits]

theorem steps_eq_self (h : step s = .next s) (n : Nat) : steps n s = .next s := by
  induction n with
  | zero => exact steps_zero s
  | succ n ih => rw [steps_succ n h, ih]

/-- Settles O53: the step of a command that waits for a silent collaborator gives the state it starts from. -/
theorem silentCollaboratorFreezesBlock : Obligations.SilentCollaboratorFreezesBlock := by
  intro i s e busy issued acts dec legal ready init event hung
  have going : Going i s := ⟨legal, ready, fun _ => by simp [issued]⟩
  have entered : (∀ a, i = .lcdStr a → s.seq % strPeriod ≠ 0) → i.enter s = s := by
    intro past
    rcases enter_cases i s with same | ⟨isInit, same⟩ | ⟨a, str, head, -⟩
    · exact same
    · rw [same, State.setLcd, ← init isInit]
    · exact absurd head (past a str)
  obtain ⟨op, opAt, rfl, same⟩ : ∃ op, i.opAt s = some op ∧ op.event s.params.devAddr = e ∧ i.enter s = s := by
    rcases event with ⟨evs, events, here⟩ | ⟨a, k, rfl, pos, nonzero, here⟩
    · obtain ⟨op, opAt, makes⟩ := opAt_of_event legal events here
      exact ⟨op, opAt, makes, entered fun a str => absurd str (ne_lcdStr_of_commandEvents events a)⟩
    · obtain ⟨op, -, opAt, makes⟩ := opAt_lcdStr_of_event (addr := a) pos nonzero here
      refine ⟨op, opAt, makes, entered fun _ _ => ?_⟩
      unfold strPeriod
      omega
  rw [isBus_event] at hung
  have frozen : step s = .next s := by
    rw [step_eq_exec acts busy dec, exec_of_going going, goOn_of_opAt opAt, same, perform_eq_self_of_hung issued hung]
  exact ⟨steps_eq_self frozen, _, rfl, rfl, rfl, rfl⟩

end

end Sys2Proof.Machine
end

section
/-! PROOFS. Reset and the host's reads (70_reset_and_hazards.md R250 to R256), the way `lcd_state` moves (42_lcd.md
R161), and that every step keeps the port invariant and the memory invariant. -/

namespace Sys2Proof.Machine

section
variable {i : Instr} {s t : State} {op : MicroOp}

/-! ### Reset -/

/-- Settles O50. -/
theorem resetLeavesBlockIdle : Obligations.ResetLeavesBlockIdle :=
  ⟨rfl, rfl, rfl, fun l => by cases l <;> rfl, rfl, rfl, rfl⟩

/-- Settles O51. -/
theorem resetAtAnyTime : Obligations.ResetAtAnyTime := by
  intro s rest acts
  have reset : step s = .next (resetBlock s.dropAct) := by rw [step, acts]; rfl
  exact ⟨_, reset, rfl, rfl, rfl, resetLeavesBlockIdle.2.2.2.1, rfl, by simp [acts], rfl⟩

/-! ### The host's reads (R256) -/

theorem step_takeResponse {rest : List Act} (acts : s.env.acts = .takeResponse :: rest) :
    step s = takeResponse s.dropAct := by rw [step, acts]; rfl

theorem step_takeResults {rest : List Act} (acts : s.env.acts = .takeResults :: rest) :
    step s = takeResults s.dropAct := by rw [step, acts]; rfl

theorem hostReads_of_valid (valid : s.rsp.valid = true) : s.hostReads = some ⟨s.rsp.status, s.rsp.results⟩ :=
  if_pos valid

theorem hostReads_of_not_valid (invalid : s.rsp.valid = false) : s.hostReads = none := if_neg (by simp [invalid])

theorem takeResults_of_some {r : Results} (valid : s.rsp.valid = true) (results : s.rsp.results = some r) :
    takeResults s = .next { s with env := { s.env with taken := s.env.taken ++ [⟨s.rsp.status, some r⟩] } } := by
  rw [takeResults, hostReads_of_valid valid, results]

theorem takeResults_of_none (valid : s.rsp.valid = true) (results : s.rsp.results = none) :
    takeResults s = .fault .hostReadsAbsentResults := by
  rw [takeResults, hostReads_of_valid valid, results]

/-- Settles O54: what the host reads is there exactly while `rsp.valid` is 1. -/
theorem hostReadsOfResponse : Obligations.HostReadsOfResponse := by
  have results : ∀ (s : State) (rest : List Act) (r : Results), s.env.acts = .takeResults :: rest →
      s.rsp.valid = true → s.rsp.results = some r → step s =
        .next { s with env := { s.env with acts := rest, taken := s.env.taken ++ [⟨s.rsp.status, some r⟩] } } := by
    intro s rest r acts valid some
    rw [step_takeResults acts, takeResults_of_some (s := s.dropAct) valid some]
    simp [State.dropAct, acts]
  have absent : ∀ (s : State) (rest : List Act), s.env.acts = .takeResults :: rest → s.rsp.valid = true →
      s.rsp.results = none → step s = .fault .hostReadsAbsentResults := fun s rest acts valid none =>
    (step_takeResults acts).trans (takeResults_of_none (s := s.dropAct) valid none)
  refine ⟨fun s rest acts => ?_, fun s rest acts invalid => ?_, absent, results, fun s rest inv acts valid => ⟨?_, ?_⟩⟩
  · rw [step_takeResponse acts, takeResponse]
    split_ifs with valid
    · rw [hostReads_of_valid (s := s.dropAct) valid]
      simp [State.dropAct, acts]
    · rw [hostReads_of_not_valid (s := s.dropAct) (by simpa using valid)]
  · rw [step_takeResults acts, takeResults, hostReads_of_not_valid (s := s.dropAct) invalid]
  · exact fun notOk => absent s rest acts valid (inv.resultsIffOk.mpr notOk)
  · intro ok
    obtain ⟨r, some⟩ := Option.ne_none_iff_exists'.mp fun none => inv.resultsIffOk.mp none ok
    exact ⟨r, some, by rw [results s rest r acts valid some, ok]⟩

/-! ### The port invariant -/

theorem PortInv.congr (h : PortInv s) (rsp : t.rsp = s.rsp) (busy : t.busy = s.busy) (phase : t.phase = s.phase)
    (cmd : t.cmd = s.cmd) : PortInv t := by
  obtain ⟨validIdle, resultsIffOk, phaseBusy, failedRtc⟩ := h
  constructor <;> simp only [rsp, busy, phase, cmd] <;> assumption

theorem portInv_reset : PortInv State.reset :=
  ⟨fun _ => rfl, by decide, fun waits => absurd rfl waits, fun failed => by cases failed⟩

/-- A response leaves the block idle, with result bytes exactly under `OK` (43_sequencer.md R205, R206). -/
theorem portInv_respond {st : Status} {r : Option Results} (h : r = none ↔ st ≠ .ok) (s : State) :
    PortInv (respond st r s) :=
  ⟨fun _ => rfl, h, fun waits => absurd rfl waits, fun failed => by cases failed⟩

theorem portInv_accept (h : PortInv s) (w : Word40) : PortInv (accept w s) where
  validIdle valid := by simp at valid
  resultsIffOk := by simpa using h.resultsIffOk
  phaseBusy waits := by simp at waits
  failedRtc failed := by simp at failed

/-- A micro-operation leaves a failed transaction only where it is a transaction. -/
theorem PortInv.perform_keeps (h : PortInv s) (busy : s.busy = true)
    (bus : op.isBus = true → ∃ i, decode s.cmd = .instr i ∧ i.isRtc = true ∧ i.operandsLegal = true) :
    PortInv (perform op s) := by
  obtain ⟨busyKept, rsp, -, moves⟩ := perform_cases op s
  constructor
  case validIdle => rw [rsp, busyKept]; exact h.validIdle
  case resultsIffOk => rw [rsp]; exact h.resultsIffOk
  case phaseBusy => exact fun _ => busyKept.trans busy
  case failedRtc =>
    intro failed
    rw [perform_cmd]
    rcases moves with ⟨-, phase⟩ | ⟨-, -, phase⟩ | ⟨isBus, -, -⟩
    · simp [phase] at failed
    · simp [phase] at failed
    · exact bus isBus

theorem PortInv.exec_keeps (h : PortInv s) (busy : s.busy = true) (dec : decode s.cmd = .instr i)
    (run : exec i s = .next t) : PortInv t := by
  rcases exec_next_cases run with ⟨-, rfl⟩ | ⟨-, -, rfl⟩ | ⟨-, -, -, rfl⟩ | ⟨going, op, here, rfl⟩ | ⟨-, -, rfl⟩
  case inr.inr.inr.inl =>
    have entered : PortInv (i.enter s) := h.congr (by simp) (by simp) (by simp) (by simp)
    exact entered.perform_keeps (by simpa using busy) fun bus =>
      ⟨i, by simpa using dec, isRtc_of_opAt_isBus here bus, going.legal⟩
  all_goals exact portInv_respond (by simp) _

/-- Settles O55. -/
theorem portInvariantKept : Obligations.PortInvariantKept := by
  intro s t h run
  have kept : PortInv s.dropAct := h.congr rfl rfl rfl rfl
  rcases step_cases run with ⟨busy, command⟩ | ⟨idle, rfl⟩ | ⟨-, rfl⟩ | ⟨e, rfl, -, -⟩
  · rcases commandStep_cases command with ⟨i, dec, run⟩ | ⟨op, -, rfl⟩
    · exact kept.exec_keeps busy dec run
    · exact portInv_respond (by simp) _
  · rcases idleStep_cases s.dropAct with ⟨w, rest, -, e⟩ | ⟨-, e⟩ <;> rw [e]
    · apply portInv_accept
      exact kept.congr rfl rfl rfl rfl
    · exact kept
  · exact portInv_reset.congr rfl rfl rfl rfl
  · exact h.congr rfl rfl rfl rfl

/-! ### The memory invariant -/

theorem MemInv.congr (h : MemInv s) (mem : t.env.mem = s.env.mem) (bus : t.env.bus = s.env.bus)
    (params : t.params = s.params) : MemInv t := by
  obtain ⟨memWf, chipWf, paramsWf⟩ := h
  constructor
  · rwa [mem]
  · rwa [Env.chipWf, bus]
  · rwa [params]

theorem Env.answer_chipWf {e : Env} (own : DevAddr) (q : BusReq) (h : e.chipWf = true) :
    (e.answer own q).2.chipWf = true := by
  unfold Env.answer
  split
  case h_5 fs chip bus => exact SimRtc.answer_wf own q chip (by simpa [Env.chipWf, bus] using h)
  case h_6 chip bus => exact SimRtc.answer_wf own q chip (by simpa [Env.chipWf, bus] using h)
  all_goals simp_all [Env.chipWf]

theorem transact_chipWf (q : BusReq) {f : Byte → State → State} (delivers : ∀ b u, (f b u).env = u.env)
    (h : s.env.chipWf = true) : (transact q f s).env.chipWf = true := by
  have answered := Env.answer_chipWf s.params.devAddr q h
  unfold transact
  split
  · simpa using h
  · split <;> simp_all

theorem perform_chipWf (op : MicroOp) (h : s.env.chipWf = true) : (perform op s).env.chipWf = true := by
  cases op
  case busWrite => exact transact_chipWf _ (fun _ _ => rfl) h
  case busRead d => exact transact_chipWf _ (fun _ _ => keep_env _ _ _) h
  all_goals rwa [perform_env_same _ s rfl]

theorem MemInv.exec_keeps (h : MemInv s) (run : exec i s = .next t) : MemInv t := by
  obtain ⟨b, n, env⟩ := exec_env run
  constructor
  case mem => rw [env]; exact h.mem
  case params => rw [exec_params run]; exact h.params
  case chip =>
    rcases exec_next_cases run with ⟨-, rfl⟩ | ⟨-, -, rfl⟩ | ⟨-, -, -, rfl⟩ | ⟨-, op, -, rfl⟩ | ⟨-, -, rfl⟩
    case inr.inr.inr.inl => exact perform_chipWf op (by simpa using h.chip)
    case inr.inr.inr.inr => rw [finish_env]; exact h.chip
    all_goals exact h.chip

/-- Settles O56. -/
theorem memoryInvariantKept : Obligations.MemoryInvariantKept := by
  intro s t h run
  have kept : MemInv s.dropAct := h.congr rfl rfl rfl
  rcases step_cases run with ⟨-, command⟩ | ⟨-, rfl⟩ | ⟨-, rfl⟩ | ⟨e, rfl, mem, chip⟩
  · rcases commandStep_cases command with ⟨i, -, run⟩ | ⟨op, -, rfl⟩
    · exact kept.exec_keeps run
    · exact kept.congr rfl rfl rfl
  · rcases idleStep_cases s.dropAct with ⟨w, rest, -, e⟩ | ⟨-, e⟩ <;> rw [e]
    · exact kept.congr (by simp) (by simp) (by simp)
    · exact kept
  · exact kept.congr rfl rfl rfl
  · exact ⟨mem h.mem, chip h.chip, h.params⟩

/-- Settles O58. -/
theorem invariantsHoldAtReset : Obligations.InvariantsHoldAtReset :=
  ⟨portInv_reset, ⟨rfl, rfl, by decide⟩, lcdInv_reset⟩

/-! ### The way `lcd_state` moves (42_lcd.md R161) -/

/-- A command moves `lcd_state` only if it is `LCD_INIT`: to `Initializing` at a micro-operation, to `Ready` at the
response, after its 122 micro-operations. -/
theorem exec_lcdState (run : exec i s = .next t) : t.lcdState = s.lcdState ∨
    (i = .lcdInit ∧ t.lcdState = .initializing ∧ t.busy = s.busy) ∨
    (i = .lcdInit ∧ 122 ≤ s.seq ∧ t.busy = false ∧ t.rsp.status = .ok ∧ t.lcdState = .ready) := by
  rcases exec_next_cases run with ⟨-, rfl⟩ | ⟨-, -, rfl⟩ | ⟨-, -, -, rfl⟩ | ⟨-, op, -, rfl⟩ | ⟨-, none, rfl⟩
  case inr.inr.inr.inl =>
    obtain ⟨busy, -⟩ := perform_cases op (i.enter s)
    rw [perform_lcdState, enter_lcdState]
    split
    next init => exact .inr (.inl ⟨init, rfl, by simpa using busy⟩)
    next => exact .inl rfl
  case inr.inr.inr.inr =>
    by_cases init : i = .lcdInit
    · subst i
      exact .inr (.inr ⟨rfl, List.getElem?_eq_none_iff.mp none, rfl, rfl, rfl⟩)
    · exact .inl (by rw [finish_eq_respondOk init, respondOk_lcdState])
  all_goals exact .inl rfl

/-- What moves `lcd_state` in a step of the machine. -/
theorem step_lcdState (run : step s = .next t) : t.lcdState = s.lcdState ∨
    (s.env.acts.head? = some .reset ∧ t.lcdState = .uninitialized) ∨
    (s.busy = false ∧ (∃ w rest, s.env.port = w :: rest ∧ t.cmd = w ∧ decode w = .instr .lcdInit) ∧ t.busy = true ∧
      t.lcdState = .initializing) ∨
    (s.busy = true ∧ decode s.cmd = .instr .lcdInit ∧ t.cmd = s.cmd ∧ t.busy = true ∧ t.lcdState = .initializing) ∨
    (s.busy = true ∧ decode s.cmd = .instr .lcdInit ∧ t.cmd = s.cmd ∧ 122 ≤ s.seq ∧ t.busy = false ∧
      t.rsp.status = .ok ∧ t.lcdState = .ready) := by
  rcases step_cases run with ⟨busy, command⟩ | ⟨idle, rfl⟩ | ⟨reset, rfl⟩ | ⟨e, rfl, -, -⟩
  · rcases commandStep_cases command with ⟨i, dec, run⟩ | ⟨op, -, rfl⟩
    · rcases exec_lcdState run with same | ⟨rfl, moved, busyT⟩ | ⟨rfl, past, idleT, ok, moved⟩
      · exact .inl same
      · exact .inr (.inr (.inr (.inl ⟨busy, dec, (exec_cmd run :), busyT.trans busy, moved⟩)))
      · exact .inr (.inr (.inr (.inr ⟨busy, dec, (exec_cmd run :), past, idleT, ok, moved⟩)))
    · exact .inl rfl
  · rcases idleStep_cases s.dropAct with ⟨w, rest, port, e⟩ | ⟨-, e⟩ <;> rw [e]
    · rw [accept_lcdState]
      split
      next init => exact .inr (.inr (.inl ⟨idle, ⟨w, rest, port, by simp, init⟩, by simp, rfl⟩))
      next => exact .inl rfl
    · exact .inl rfl
  · exact .inr (.inl ⟨reset, rfl⟩)
  · exact .inl rfl

/-- Settles O52: of the moves of `step_lcdState` the LCD invariant leaves out the micro-operations of `LCD_INIT`, at
which `lcd_state` is `Initializing` already. -/
theorem onlyInitAndResetMoveLcdState : Obligations.OnlyInitAndResetMoveLcdState := by
  constructor
  · intro s t run moved
    rcases step_lcdState run with same | reset | ⟨-, ⟨w, -, -, cmd, init⟩, busy, after⟩ | ⟨-, init, cmd, busy, after⟩ |
      ⟨-, init, cmd, -, idle, -, after⟩
    · exact absurd same moved
    · exact .inl reset
    · exact .inr (.inl ⟨cmd ▸ init, busy, after⟩)
    · exact .inr (.inl ⟨cmd ▸ init, busy, after⟩)
    · exact .inr (.inr ⟨cmd ▸ init, idle, after⟩)
  · intro s t inv run moved
    rcases step_lcdState run with same | reset | ⟨idle, word, busy, after⟩ | ⟨busy, init, -, -, after⟩ |
      ⟨busy, init, -, past, idle, ok, after⟩
    · exact absurd same moved
    · exact .inl reset
    · have notInit := inv.lcdState_ne_initializing (by simp [idle])
      refine .inr (.inl ⟨?_, idle, word, busy, after⟩)
      cases before : s.lcdState
      exacts [.inl rfl, absurd before notInit, .inr rfl]
    · exact absurd (after.trans (inv.initIff.mpr ⟨busy, init⟩).symm) moved
    · exact .inr (.inr ⟨inv.initIff.mpr ⟨busy, init⟩, busy, init, past, idle, ok, after⟩)

end

end Sys2Proof.Machine
end

section
/-! PROOFS. Runs of a command: a list of micro-operations each of which is complete in its step (`AllComplete`) is run
one step each, and then the completion. The runs of the LCD commands (42_lcd.md R165 to R174), delays returning. -/

namespace Sys2Proof.Machine

/-! ### A list of micro-operations, one step each -/

/-- The state after a list of micro-operations. -/
def performAll (ops : List MicroOp) (s : State) : State := ops.foldl (fun u op => perform op u) s

/-- Before each micro-operation of the list, and after the last, none waits and no transaction has failed. -/
def AllComplete : List MicroOp → State → Prop
  | [], s => s.phase = .fresh
  | op :: ops, s => s.phase = .fresh ∧ AllComplete ops (perform op s)

section
variable {i : Instr} {s t u : State} {op : MicroOp} {ops : List MicroOp}

@[simp] theorem performAll_nil (s : State) : performAll [] s = s := rfl

@[simp] theorem performAll_cons (op : MicroOp) (ops : List MicroOp) (s : State) :
    performAll (op :: ops) s = performAll ops (perform op s) := rfl

@[simp] theorem perform_busy (op : MicroOp) (s : State) : (perform op s).busy = s.busy := (perform_cases op s).1

@[simp] theorem perform_rsp (op : MicroOp) (s : State) : (perform op s).rsp = s.rsp := (perform_cases op s).2.1

/-- A field that no micro-operation writes. -/
theorem performAll_field {α : Type} (f : State → α) (kept : ∀ op u, f (perform op u) = f u) (ops : List MicroOp)
    (s : State) : f (performAll ops s) = f s := by
  induction ops generalizing s with
  | nil => rfl
  | cons op ops ih => exact (ih _).trans (kept op s)

@[simp] theorem performAll_busy (ops : List MicroOp) (s : State) : (performAll ops s).busy = s.busy :=
  performAll_field _ perform_busy ops s
@[simp] theorem performAll_rsp (ops : List MicroOp) (s : State) : (performAll ops s).rsp = s.rsp :=
  performAll_field _ perform_rsp ops s
@[simp] theorem performAll_lcdState (ops : List MicroOp) (s : State) : (performAll ops s).lcdState = s.lcdState :=
  performAll_field _ perform_lcdState ops s
@[simp] theorem performAll_params (ops : List MicroOp) (s : State) : (performAll ops s).params = s.params :=
  performAll_field _ perform_params ops s

theorem AllComplete.start (h : AllComplete ops s) : s.phase = .fresh := by
  cases ops with
  | nil => exact h
  | cons op ops => exact h.1

theorem AllComplete.phase (h : AllComplete ops s) : (performAll ops s).phase = .fresh := by
  induction ops generalizing s with
  | nil => exact h
  | cons op ops ih => exact ih h.2

theorem AllComplete.take (h : AllComplete ops s) (k : Nat) : AllComplete (ops.take k) s := by
  induction ops generalizing s k with
  | nil => simpa using h
  | cons op ops ih =>
    cases k with
    | zero => exact h.1
    | succ k => exact ⟨h.1, ih h.2 k⟩

theorem perform_seq_of_fresh (fresh : (perform op s).phase = .fresh) : (perform op s).seq = s.seq + 1 := by
  obtain ⟨-, -, -, ⟨seq, -⟩ | ⟨-, -, phase⟩ | ⟨-, -, phase⟩⟩ := perform_cases op s
  · exact seq
  · simp [phase] at fresh
  · simp [phase] at fresh

theorem AllComplete.seq (h : AllComplete ops s) : (performAll ops s).seq = s.seq + ops.length := by
  induction ops generalizing s with
  | nil => rfl
  | cons op ops ih =>
    rw [performAll_cons, ih h.2, perform_seq_of_fresh h.2.start, List.length_cons]
    omega

theorem AllComplete.trace (h : AllComplete ops s) :
    (performAll ops s).trace = s.trace ++ ops.map (MicroOp.event s.params.devAddr) := by
  induction ops generalizing s with
  | nil => simp
  | cons op ops ih =>
    rw [performAll_cons, ih h.2, perform_trace_of_not_issued (by simp [h.1]), perform_params]
    simp

/-- A command whose steps from `s` on are the micro-operations of a list performs the list. -/
theorem runCommand_performAll (busy : s.busy = true) (ops : List MicroOp)
    (runs : ∀ k op, ops[k]? = some op →
      exec i (performAll (ops.take k) s) = .next (perform op (performAll (ops.take k) s))) :
    runCommand i ops.length s = .next (performAll ops s) := by
  induction ops generalizing s with
  | nil => rfl
  | cons op ops ih =>
    rw [List.length_cons, runCommand_succ i _ busy (runs 0 op rfl)]
    exact ih (by simpa using busy) fun k => runs (k + 1)

theorem runCommand_add {m : Nat} (n : Nat) (h : runCommand i m s = .next u) :
    runCommand i (m + n) s = runCommand i n u := by
  induction m generalizing s with
  | zero => cases h; rw [Nat.zero_add]
  | succ m ih =>
    cases busy : s.busy with
    | true =>
      obtain ⟨v, first⟩ := everyCommandStepAnswersNext i s
      rw [runCommand_succ i m busy first] at h
      rw [Nat.add_right_comm, runCommand_succ i _ busy first, ih h]
    | false =>
      rw [runCommand_idle i _ busy] at h ⊢
      cases h
      rw [runCommand_idle i _ busy]

theorem runCommand_one (busy : s.busy = true) (h : exec i s = .next t) : runCommand i 1 s = .next t :=
  runCommand_succ i 0 busy h

/-- A command with a list of micro-operations, just accepted and not to be stopped by a check. -/
structure Started (i : Instr) (s : State) : Prop extends AtStart s where
  notStr : ∀ a, i ≠ .lcdStr a
  legal : i.operandsLegal = true
  ready : i.needsReady = true → s.lcdState = .ready
  init : i = .lcdInit → s.lcdState = .initializing

theorem Started.going (h : Started i s) (lcd : u.lcdState = s.lcdState) (fresh : u.phase = .fresh) : Going i u :=
  ⟨h.legal, fun needs => lcd.trans (h.ready needs), fun _ => by simp [fresh]⟩

theorem Started.enter_eq_self (h : Started i s) (lcd : u.lcdState = s.lcdState) : i.enter u = u := by
  rcases enter_cases i u with same | ⟨isInit, same⟩ | ⟨a, str, -⟩
  · exact same
  · rw [same, State.setLcd, ← h.init isInit, ← lcd]
  · exact absurd str (h.notStr a)

/-- The part of the list that is complete has been run, one step each. -/
theorem Started.runCommand_take (h : Started i s) {k : Nat}
    (complete : AllComplete ((i.ops s.params).take k) s) :
    runCommand i ((i.ops s.params).take k).length s = .next (performAll ((i.ops s.params).take k) s) := by
  refine runCommand_performAll h.busy _ fun j op here => ?_
  have completeJ := complete.take j
  have short : j < ((i.ops s.params).take k).length := (List.getElem?_eq_some_iff.mp here).1
  have seq := completeJ.seq
  rw [h.seq, List.length_take_of_le short.le, Nat.zero_add] at seq
  have atJ : i.opAt (performAll (((i.ops s.params).take k).take j) s) = some op := by
    rw [opAt_eq_getElem? h.notStr, performAll_params, seq]
    rw [List.length_take] at short
    rwa [List.getElem?_take_of_lt (by omega)] at here
  rw [exec_of_going (h.going (by simp) completeJ.phase), goOn_of_opAt atJ, h.enter_eq_self (by simp)]

/-- A command whose micro-operations are all complete in their steps runs to its completion. -/
theorem Started.runCommand_all (h : Started i s) (complete : AllComplete (i.ops s.params) s) :
    runCommand i (i.ops s.params).length s = .next (performAll (i.ops s.params) s) ∧
    runCommand i ((i.ops s.params).length + 1) s = .next (i.finish (performAll (i.ops s.params) s)) := by
  have all := h.runCommand_take (k := (i.ops s.params).length) (by simpa using complete)
  rw [List.take_length] at all
  have none : i.opAt (performAll (i.ops s.params) s) = none := by
    rw [opAt_eq_getElem? h.notStr, performAll_params, complete.seq, h.seq, Nat.zero_add]
    simp
  refine ⟨all, (runCommand_add 1 all).trans (runCommand_one (by simpa using h.busy) ?_)⟩
  rw [exec_of_going (h.going (by simp) complete.phase), goOn_of_opAt_none none]

/-! ### Lists of line micro-operations, delays returning -/

/-- The state after events of the LCD part. -/
def State.afterEvents (evs : List Event) (s : State) : State :=
  { s with seq := s.seq + evs.length, lines := linesAfter evs s.lines, trace := s.trace ++ evs }

theorem linesAfter_append (evs evs' : List Event) (ls : Lines) :
    linesAfter (evs ++ evs') ls = linesAfter evs' (linesAfter evs ls) := List.foldl_append ..

theorem afterEvents_append (evs evs' : List Event) (s : State) :
    (s.afterEvents evs).afterEvents evs' = s.afterEvents (evs ++ evs') := by
  simp [State.afterEvents, linesAfter_append, Nat.add_assoc]

theorem afterEvents_nil (s : State) : s.afterEvents [] = s := by simp [State.afterEvents, linesAfter]

theorem performAll_line (line : ∀ op ∈ ops, op.isLine = true) (fresh : s.phase = .fresh)
    (delayHung : s.env.delayHung = false) (dev : DevAddr) :
    AllComplete ops s ∧ performAll ops s = s.afterEvents (ops.map (MicroOp.event dev)) := by
  induction ops generalizing s with
  | nil => exact ⟨fresh, (afterEvents_nil s).symm⟩
  | cons op ops ih =>
    rw [List.forall_mem_cons] at line
    have first : perform op s = s.afterEvents [op.event dev] := perform_line op line.1 s fresh delayHung dev
    obtain ⟨complete, run⟩ := ih line.2 (s := s.afterEvents [op.event dev]) fresh delayHung
    rw [← first] at complete
    refine ⟨⟨fresh, complete⟩, ?_⟩
    rw [performAll_cons, first, run, afterEvents_append]
    rfl

/-- An LCD command with a list of events makes them and then its response. -/
theorem Started.runCommand_lcd (h : Started i s) (lcd : i.isLcd = true) (delayHung : s.env.delayHung = false)
    {evs : List Event} (events : commandEvents s.params i = some evs) :
    (∀ k ≤ evs.length, runCommand i k s = .next (s.afterEvents (evs.take k))) ∧
    runCommand i (evs.length + 1) s = .next (i.finish (s.afterEvents evs)) := by
  have line : ∀ op ∈ i.ops s.params, op.isLine = true := fun op => isLine_of_mem_ops lcd
  have evs_eq := ops_events h.legal events
  have length : (i.ops s.params).length = evs.length := by rw [← evs_eq, List.length_map]
  constructor
  · intro k le
    obtain ⟨complete, run⟩ := performAll_line (fun op mem => line op (List.mem_of_mem_take mem)) h.phase delayHung
      s.params.devAddr (ops := (i.ops s.params).take k)
    have steps := h.runCommand_take complete
    rwa [run, List.length_take, length, Nat.min_eq_left le, List.map_take, evs_eq] at steps
  · obtain ⟨complete, run⟩ := performAll_line line h.phase delayHung s.params.devAddr
    have steps := (h.runCommand_all complete).2
    rwa [run, length, evs_eq] at steps

end

/-! ### The runs of the LCD commands -/

section
variable {i : Instr} {s : State} {p : Params}

/-- After the events of a command that sends a byte EN and RW are low. -/
theorem linesAfter_commandEvents {evs : List Event} (needs : i.needsReady = true)
    (events : commandEvents p i = some evs) (sends : evs ≠ []) (ls : Lines) :
    (linesAfter evs ls).en = .low ∧ (linesAfter evs ls).rw = .low := by
  cases i <;> cases needs
  case lcdCmd => cases events; exact ⟨rfl, rfl⟩
  case lcdChar => cases events; exact ⟨rfl, rfl⟩
  case lcdStr => cases events
  case lcdHome => cases events; exact ⟨rfl, rfl⟩
  case lcdClear => cases events; exact ⟨rfl, rfl⟩
  case lcdCursor row column =>
    simp only [commandEvents] at events
    split_ifs at events <;> cases events
    · exact ⟨rfl, rfl⟩
    · exact ⟨rfl, rfl⟩
    · exact absurd rfl sends

theorem started_of_needsReady (needs : i.needsReady = true) (notStr : ∀ a, i ≠ .lcdStr a) (start : AtStart s)
    (ready : s.lcdState = .ready) : Started i s :=
  ⟨start, notStr, operandsLegal_of_isLcd (isLcd_of_needsReady needs), fun _ => ready, by rintro rfl; cases needs⟩

/-- Settles O42. -/
theorem lcdSendRun : Obligations.LcdSendRun := by
  intro i s evs needs events ready start delayHung
  have started := started_of_needsReady needs (ne_lcdStr_of_commandEvents events) start ready
  have lcd := isLcd_of_needsReady needs
  refine ⟨?_, fun sends => linesAfter_commandEvents needs events sends _⟩
  have results : ∀ u, i.results u = Results.zero := fun u => by cases i <;> cases needs <;> rfl
  rw [(started.runCommand_lcd lcd delayHung events).2, finish_eq_respondOk (by rintro rfl; cases needs), results]
  simp [State.afterEvents, respondOk, respond, State.record, Results.zero, start.seq, start.phase]

/-- `LCD_INIT` writes `Initializing` first, so its run is that from `Initializing`. -/
theorem runCommand_lcdInit_setLcd (busy : s.busy = true) (k : Nat) :
    runCommand .lcdInit (k + 1) s = runCommand .lcdInit (k + 1) (s.setLcd .initializing) := by
  obtain ⟨u, first⟩ := everyCommandStepAnswersNext .lcdInit s
  have first' : exec .lcdInit (s.setLcd .initializing) = .next u := first
  rw [runCommand_succ _ k busy first, runCommand_succ _ k (by simpa using busy) first']

theorem lcdInitEvents_length (p : Params) : (lcdInitEvents p).length = 122 := rfl

theorem linesAfter_lcdInitEvents (p : Params) (ls : Lines) : linesAfter (lcdInitEvents p) ls =
    { rs := .low, rw := .low, en := .low, d4 := .ofBool (p.cmdEntryModeInc.getLsbD 0),
      d5 := .ofBool (p.cmdEntryModeInc.getLsbD 1), d6 := .ofBool (p.cmdEntryModeInc.getLsbD 2),
      d7 := .ofBool (p.cmdEntryModeInc.getLsbD 3) } := rfl

theorem started_lcdInit (start : AtStart s) : Started .lcdInit (s.setLcd .initializing) :=
  ⟨⟨start.busy, start.seq, start.phase⟩, by simp, rfl, by simp [Instr.needsReady], fun _ => rfl⟩

/-- Settles O39. -/
theorem lcdInitRun : Obligations.LcdInitRun := by
  intro s start delayHung
  obtain ⟨steps, complete⟩ := (started_lcdInit start).runCommand_lcd rfl delayHung rfl
  refine ⟨?_, fun k pos le => ?_⟩
  · rw [runCommand_lcdInit_setLcd start.busy, ← lcdInitEvents_length s.params]
    refine complete.trans (congrArg Host.Outcome.next ?_)
    simp [Instr.finish, Instr.results, State.afterEvents, respondOk, respond, State.record, State.setLcd, Results.zero,
      linesAfter_lcdInitEvents, start.seq, start.phase]
  · obtain ⟨k, rfl⟩ := Nat.exists_eq_succ_of_ne_zero pos.ne'
    have length : ((lcdInitEvents s.params).take (k + 1)).length = k + 1 := List.length_take_of_le le
    exact ⟨_, (runCommand_lcdInit_setLcd start.busy k).trans (steps (k + 1) le), start.busy, rfl,
      by simp only [State.afterEvents, setLcd_seq, setLcd_params, start.seq, length, Nat.zero_add], rfl⟩

end

/-! ### The loop of `LCD_STR` -/

/-- The state with `LCD_STR` at a character: its address in `str_ptr`, its byte held. -/
def State.atChar (a : StrAddr) (c : Byte) (s : State) : State := { s with phase := .fresh, strPtr := a, held := c }

section
variable {addr a : StrAddr} {c : Byte} {s : State}

theorem runCommand_lcdStr_head (busy : s.busy = true) (ready : s.lcdState = .ready) (head : s.seq % 19 = 0)
    (at_ : nextStrPtr addr s = a) (byte : Memory.read s.env.mem a = c) :
    runCommand (.lcdStr addr) 1 s = .next ((s.atChar a c).afterEvents [.memRead a]) := by
  have first := exec_lcdStr_head ready (addr := addr) head
  rw [at_, byte] at first
  exact runCommand_one busy first

/-- After the `MemRead` of a character the events of its byte are made, one each step. -/
theorem runCommand_lcdStr_byte (busy : s.busy = true) (ready : s.lcdState = .ready)
    (delayHung : s.env.delayHung = false) (fresh : s.phase = .fresh) (past : s.seq % 19 = 1)
    (held : s.held = c) (nonzero : c ≠ 0x00#8) :
    runCommand (.lcdStr addr) 18 s = .next (s.afterEvents (byteEvents s.params true c)) := by
  have atPos (k : Nat) : performAll ((sendByteOps s.params true c).take k) s =
      s.afterEvents (((sendByteOps s.params true c).take k).map (MicroOp.event s.params.devAddr)) :=
    (performAll_line (fun op mem => sendByteOps_isLine _ _ _ op (List.mem_of_mem_take mem)) fresh delayHung _).2
  have all := atPos 18
  rw [List.take_of_length_le (by simp [sendByteOps_length]), sendByteOps_events] at all
  rw [← all]
  refine runCommand_performAll busy (sendByteOps s.params true c) fun k op here => ?_
  have short : k < 18 := (List.getElem?_eq_some_iff.mp here).1
  rw [atPos]
  set u := s.afterEvents (((sendByteOps s.params true c).take k).map (MicroOp.event s.params.devAddr)) with hu
  have pos : u.seq % strPeriod = k + 1 := by
    have seq : u.seq = s.seq + k := by
      simp [hu, State.afterEvents, List.length_take, sendByteOps_length, Nat.min_eq_left short.le]
    rw [seq, strPeriod]
    omega
  have opAt : (Instr.lcdStr addr).opAt u = some op := by
    rw [opAt_lcdStr_past addr pos, show u.held = c from held, if_neg nonzero]
    exact here
  rw [exec_of_going (going_lcdStr (s := u) ready addr), goOn_of_opAt opAt, enter_lcdStr_past addr (by omega)]

/-- The steps of `LCD_STR` for one character. -/
theorem runCommand_lcdStr_char (busy : s.busy = true) (ready : s.lcdState = .ready)
    (delayHung : s.env.delayHung = false) (head : s.seq % 19 = 0) (at_ : nextStrPtr addr s = a)
    (byte : Memory.read s.env.mem a = c) (nonzero : c ≠ 0x00#8) :
    runCommand (.lcdStr addr) 19 s =
      .next ((s.atChar a c).afterEvents (.memRead a :: byteEvents s.params true c)) := by
  have past : ((s.atChar a c).afterEvents [.memRead a]).seq % 19 = 1 := by
    show (s.seq + 1) % 19 = 1
    omega
  have first := runCommand_lcdStr_head busy ready head at_ byte
  have bytes := runCommand_lcdStr_byte (addr := addr) (s := (s.atChar a c).afterEvents [.memRead a]) busy ready
    delayHung rfl past rfl nonzero
  rw [runCommand_add 18 first, bytes, afterEvents_append]
  rfl

/-- From the head of its loop `LCD_STR` sends the string that stands at the address it reads next. -/
theorem runCommand_lcdStr (cs : List Byte) (busy : s.busy = true) (ready : s.lcdState = .ready)
    (delayHung : s.env.delayHung = false) (head : s.seq % 19 = 0) (at_ : nextStrPtr addr s = a)
    (str : StringAt s.env.mem a cs) : runCommand (.lcdStr addr) (19 * cs.length + 2) s = .next
      (respondOk Results.zero
        ((s.atChar (a + BitVec.ofNat 16 cs.length) 0x00#8).afterEvents (stringEvents s.params a cs))) := by
  induction cs generalizing s a with
  | nil =>
    have past : ((s.atChar a 0x00#8).afterEvents [.memRead a]).seq % 19 ≠ 0 := by
      show (s.seq + 1) % 19 ≠ 0
      omega
    rw [List.length_nil, show 19 * 0 + 2 = 1 + 1 from rfl,
      runCommand_add 1 (runCommand_lcdStr_head busy ready head at_ str),
      runCommand_one (s := (s.atChar a 0x00#8).afterEvents [.memRead a]) busy
        (exec_lcdStr_zero (s := (s.atChar a 0x00#8).afterEvents [.memRead a]) ready past rfl)]
    simp [stringEvents]
  | cons c cs ih =>
    obtain ⟨byte, nonzero, rest⟩ := str
    have char := runCommand_lcdStr_char busy ready delayHung head at_ byte nonzero
    set u := (s.atChar a c).afterEvents (.memRead a :: byteEvents s.params true c) with hu
    have seq : u.seq = s.seq + 19 := rfl
    have next : nextStrPtr addr u = a + 1#16 := if_neg (by omega)
    rw [List.length_cons, show 19 * (cs.length + 1) + 2 = 19 + (19 * cs.length + 2) by omega, runCommand_add _ char,
      ih (s := u) busy ready delayHung (by omega) next rest, BitVec.add_assoc, ← BitVec.ofNat_add 1,
      Nat.add_comm 1]
    congr 2
    exact afterEvents_append (.memRead a :: byteEvents s.params true c) (stringEvents s.params (a + 1#16) cs)
      (s.atChar (a + BitVec.ofNat 16 (cs.length + 1)) 0x00#8)

theorem stringEvents_length (p : Params) (cs : List Byte) (a : StrAddr) :
    (stringEvents p a cs).length = 19 * cs.length + 1 := by
  induction cs generalizing a with
  | nil => rfl
  | cons c cs ih =>
    rw [stringEvents, List.length_cons, List.length_append, ih, List.length_cons]
    have : (byteEvents p true c).length = 18 := rfl
    omega

/-- Settles O45. -/
theorem lcdStrRun : Obligations.LcdStrRun := by
  intro cs addr s start ready delayHung str
  rw [runCommand_lcdStr cs start.busy ready delayHung (by rw [start.seq]) (if_pos start.seq) str]
  simp [State.afterEvents, State.atChar, respondOk, respond, State.record, Results.zero, stringEvents_length, start.seq,
    start.phase]

/-- A state of `LCD_STR` in a memory with no zero byte, delays returning. -/
structure InEndlessLoop (s : State) : Prop where
  busy : s.busy = true
  ready : s.lcdState = .ready
  fresh : s.phase = .fresh
  delayHung : s.env.delayHung = false
  noZero : ∀ a, Memory.read s.env.mem a ≠ 0x00#8
  held : s.seq % 19 ≠ 0 → s.held ≠ 0x00#8

theorem byteEvents_not_isResponse {p : Params} {rs : Bool} {b : Byte} :
    ∀ e ∈ byteEvents p rs b, e.isResponse = false := by
  simp [byteEvents, nibbleEvents, Event.isResponse]

/-- A step in the loop makes one event, no response, and stays in it. -/
theorem InEndlessLoop.exec_lcdStr (h : InEndlessLoop s) (addr : StrAddr) : ∃ (t : State) (e : Event),
    exec (.lcdStr addr) s = .next t ∧ InEndlessLoop t ∧ t.rsp = s.rsp ∧ t.trace = s.trace ++ [e] ∧
      e.isResponse = false := by
  obtain ⟨busy, ready, fresh, delayHung, noZero, held⟩ := h
  by_cases head : s.seq % 19 = 0
  · exact ⟨_, _, exec_lcdStr_head ready head, ⟨busy, ready, rfl, delayHung, noZero, fun _ => noZero _⟩, rfl, rfl, rfl⟩
  · obtain ⟨k, pos⟩ := Nat.exists_eq_succ_of_ne_zero head
    have short : k < (byteEvents s.params true s.held).length := by
      show k < 18
      omega
    exact ⟨_, _, exec_lcdStr_char ready fresh delayHung pos (held head) (List.getElem?_eq_getElem short),
      ⟨busy, ready, fresh, delayHung, noZero, fun _ => held head⟩, rfl, rfl,
      byteEvents_not_isResponse _ (List.getElem_mem short)⟩

/-- Settles O46. -/
theorem lcdStrWithoutTerminatorNeverResponds : Obligations.LcdStrWithoutTerminatorNeverResponds := by
  intro addr s start ready delayHung noZero n
  have loop : InEndlessLoop s := ⟨start.busy, ready, start.phase, delayHung, noZero, by simp [start.seq]⟩
  clear start ready delayHung noZero
  induction n generalizing s with
  | zero => exact ⟨s, [], rfl, loop.busy, rfl, by simp, rfl, by simp⟩
  | succ n ih =>
    obtain ⟨u, e, first, loop', rsp, trace, notResponse⟩ := loop.exec_lcdStr addr
    obtain ⟨t, evs, run, busy, rsp', trace', length, noResponse⟩ := ih u loop'
    exact ⟨t, e :: evs, (runCommand_succ _ n loop.busy first).trans run, busy, rsp'.trans rsp, by simp [trace', trace],
      by simp [length], List.forall_mem_cons.mpr ⟨notResponse, noResponse⟩⟩

end

/-! ### How many events, and the sums of the delays (R174) -/

section
variable {i : Instr} {s : State} {p : Params}

@[simp] theorem totalDelayUs_cons (e : Event) (evs : List Event) :
    totalDelayUs (e :: evs) = e.delayUsOf + totalDelayUs evs := by simp [totalDelayUs]

@[simp] theorem totalDelayUs_append (evs evs' : List Event) :
    totalDelayUs (evs ++ evs') = totalDelayUs evs + totalDelayUs evs' := by simp [totalDelayUs]

theorem totalDelayUs_nibbleEvents (h : DefaultDelays p) (w x y z : Bool) :
    totalDelayUs (nibbleEvents p w x y z) = 110 := by
  simp [totalDelayUs, nibbleEvents, Event.delayUsOf, h.enHigh, h.enLow]

theorem totalDelayUs_byteEvents (h : DefaultDelays p) (rs : Bool) (b : Byte) :
    totalDelayUs (byteEvents p rs b) = 220 := by
  simp [byteEvents, totalDelayUs_nibbleEvents h, Event.delayUsOf]

theorem totalDelayUs_lcdInitEvents (h : DefaultDelays p) : totalDelayUs (lcdInitEvents p) = 48470 := by
  simp [lcdInitEvents, handshakeEvents, setupEvents, totalDelayUs_nibbleEvents h, totalDelayUs_byteEvents h,
    Event.delayUsOf, h.powerOn, h.init1, h.init2, h.settle]
  rfl

theorem totalDelayUs_stringEvents (h : DefaultDelays p) (cs : List Byte) (a : StrAddr) :
    totalDelayUs (stringEvents p a cs) = 220 * cs.length := by
  induction cs generalizing a with
  | nil => rfl
  | cons c cs ih =>
    simp only [stringEvents, totalDelayUs_cons, totalDelayUs_append, totalDelayUs_byteEvents h, ih, Event.delayUsOf,
      List.length_cons]
    omega

theorem not_isResponse_of_commandEvents {evs : List Event} (legal : i.operandsLegal = true)
    (events : commandEvents p i = some evs) : ∀ e ∈ evs, e.isResponse = false := by
  rw [← ops_events legal events, List.forall_mem_map]
  exact fun op _ => isResponse_event op _

theorem not_isResponse_of_stringEvents (cs : List Byte) (a : StrAddr) :
    ∀ e ∈ stringEvents p a cs, e.isResponse = false := by
  induction cs generalizing a with
  | nil => exact List.forall_mem_cons.mpr ⟨rfl, by simp⟩
  | cons c cs ih =>
    rw [stringEvents, List.forall_mem_cons, List.forall_mem_append]
    exact ⟨rfl, byteEvents_not_isResponse, ih _⟩

theorem runRecords_lcdInit (start : AtStart s) (delayHung : s.env.delayHung = false) :
    RunRecords .lcdInit s .ok 122 48470 :=
  ⟨123, _, lcdInitEvents s.params, _, (lcdInitRun s start delayHung).1, rfl, rfl,
    not_isResponse_of_commandEvents (i := .lcdInit) rfl rfl, rfl, totalDelayUs_lcdInitEvents⟩

theorem runRecords_lcdSend {evs : List Event} {us : Nat} (needs : i.needsReady = true) (start : AtStart s)
    (ready : s.lcdState = .ready) (delayHung : s.env.delayHung = false) (events : commandEvents s.params i = some evs)
    (sum : DefaultDelays s.params → totalDelayUs evs = us) : RunRecords i s .ok evs.length us :=
  ⟨_, _, evs, _, (lcdSendRun i s evs needs events ready start delayHung).1, rfl, rfl,
    not_isResponse_of_commandEvents (operandsLegal_of_isLcd (isLcd_of_needsReady needs)) events, rfl, sum⟩

theorem runRecords_lcdStr (start : AtStart s) (ready : s.lcdState = .ready) (delayHung : s.env.delayHung = false)
    {a : StrAddr} {cs : List Byte} (str : StringAt s.env.mem a cs) :
    RunRecords (.lcdStr a) s .ok (19 * cs.length + 1) (220 * cs.length) :=
  ⟨_, _, _, _, lcdStrRun cs a s start ready delayHung str, rfl, rfl, not_isResponse_of_stringEvents cs a,
    stringEvents_length _ cs a, fun h => totalDelayUs_stringEvents h cs a⟩

theorem runRecords_notReady (start : AtStart s) (notReady : s.lcdState ≠ .ready) (needs : i.needsReady = true) :
    RunRecords i s .notReady 0 0 :=
  ⟨1, _, [], none, runCommand_one start.busy (exec_of_not_ready needs notReady), rfl,
    by simp [raise, respond, State.record], by simp, rfl, fun _ => rfl⟩

theorem runRecords_lcdCursor (start : AtStart s) (ready : s.lcdState = .ready) (delayHung : s.env.delayHung = false)
    (row column : Byte) : if row = 1#8 ∨ row = 2#8 then RunRecords (.lcdCursor row column) s .ok 18 220
      else RunRecords (.lcdCursor row column) s .ok 0 0 := by
  split_ifs with shown
  · rcases shown with rfl | rfl
    · exact runRecords_lcdSend rfl start ready delayHung rfl fun h => totalDelayUs_byteEvents h ..
    · exact runRecords_lcdSend rfl start ready delayHung rfl fun h => totalDelayUs_byteEvents h ..
  · rw [not_or] at shown
    have none : commandEvents s.params (.lcdCursor row column) = some [] := by
      rw [commandEvents, if_neg shown.1, if_neg shown.2]
    exact runRecords_lcdSend rfl start ready delayHung none fun _ => rfl

/-- Settles O40. -/
theorem eventCountsAndDelaySums : Obligations.EventCountsAndDelaySums := by
  refine ⟨fun p v => ⟨rfl, fun h => ?_⟩, fun p rs b => ⟨rfl, fun h => ?_⟩, fun s start delayHung =>
    ⟨runRecords_lcdInit start delayHung, fun ready => ?_, fun notReady i => runRecords_notReady start notReady⟩⟩
  · rw [nibbleOps_events, totalDelayUs_nibbleEvents h]
  · rw [sendByteOps_events, totalDelayUs_byteEvents h]
  · have send {i : Instr} {evs : List Event} {us : Nat} (needs : i.needsReady = true) :=
      runRecords_lcdSend (evs := evs) (us := us) needs start ready delayHung
    have settled (h : DefaultDelays s.params) (b : Byte) :
        totalDelayUs (byteEvents s.params false b ++ [.delayMs s.params.tSettleMs]) = 2220 := by
      rw [totalDelayUs_append, totalDelayUs_byteEvents h, h.settle]
      rfl
    exact ⟨fun b => ⟨send rfl rfl fun h => totalDelayUs_byteEvents h _ b,
        send rfl rfl fun h => totalDelayUs_byteEvents h _ b⟩,
      send rfl rfl fun h => settled h _, send rfl rfl fun h => settled h _,
      runRecords_lcdCursor start ready delayHung, fun a cs => runRecords_lcdStr start ready delayHung⟩

end

end Sys2Proof.Machine
end

section
/-! PROOFS. The runs of the RTC commands (41_rtc.md R129 to R141): on a bus that answers from a script, up to the first
transaction that fails, and against the fixture `SimRTC`. -/

namespace Sys2Proof.Machine

section
variable {i : Instr} {s : State} {op : MicroOp} {ops before after : List MicroOp} {rest : List BusAnswer}

/-- A micro-operation of an RTC command. -/
def MicroOp.IsRtc (op : MicroOp) : Prop := op = .busInit ∨ op.isBus = true

theorem MicroOp.IsRtc.not_isLine (h : op.IsRtc) : op.isLine = false := by
  rcases h with rfl | isBus
  · rfl
  · cases op <;> cases isBus <;> rfl

theorem isRtc_of_mem_ops {p : Params} (rtc : i.isRtc = true) : ∀ op ∈ i.ops p, op.IsRtc := by
  intro op mem
  rcases mem_ops_of_isRtc rtc mem with rfl | ⟨bytes, rfl⟩ | ⟨dest, rfl, -⟩
  · exact .inl rfl
  · exact .inr rfl
  · exact .inr rfl

theorem started_of_isRtc (rtc : i.isRtc = true) (legal : i.operandsLegal = true) (start : AtStart s) : Started i s := by
  have notLcd : i.isLcd = false := isLcd_of_isRtc rtc
  refine ⟨start, ?_, legal, fun needs => ?_, ?_⟩
  · rintro a rfl
    cases rtc
  · simp [isLcd_of_needsReady needs] at notLcd
  · rintro rfl
    cases rtc

/-! ### A transaction, as its collaborator answers -/

theorem issue_of_fresh (fresh : s.phase = .fresh) (e : Event) : s.issue e = s.record e := if_neg (by simp [fresh])

theorem transact_answered {q : BusReq} {b : Byte} {e : Env} (fresh : s.phase = .fresh) (hung : s.env.busHung = false)
    (answer : s.env.answer s.params.devAddr q = (.ok b, e)) (f : Byte → State → State) :
    transact q f s = (f b ((s.record q.event).withEnv e)).advance := by
  rw [transact_of_answer hung answer, issue_of_fresh fresh]

theorem perform_of_fail {e : Env} (isBus : op.isBus = true) (hung : s.env.busHung = false)
    (answer : ∀ q, s.env.answer s.params.devAddr q = (.fail, e)) :
    (perform op s).phase = .failed ∧ (perform op s).env = e := by
  have fails (q : BusReq) (f : Byte → State → State) : transact q f s = ((s.issue q.event).withEnv e).failOp := by
    rw [transact_fail q s f hung (by rw [answer]), answer]
  cases op <;> cases isBus <;> rw [Machine.perform, fails] <;> exact ⟨rfl, rfl⟩

/-! ### A bus that answers from a script -/

/-- The state after micro-operations of an RTC command, the bus answering with the bytes and then as `rest` says. -/
def answerAll (rest : List BusAnswer) : List MicroOp → List Byte → State → State
  | .busInit :: ops, bytes, s => answerAll rest ops bytes (s.record .busInit).advance
  | .busWrite w :: ops, _ :: bytes, s => answerAll rest ops bytes
    ((s.record (.busWrite s.params.devAddr w)).withEnv { s.env with bus := .script (bytes.map .ok ++ rest) }).advance
  | .busRead dest :: ops, b :: bytes, s => answerAll rest ops bytes
    (((s.record (.busRead s.params.devAddr 1)).withEnv { s.env with bus := .script (bytes.map .ok ++ rest) }).keep
      dest b).advance
  | _, _, s => s

theorem performAll_script {bytes : List Byte} (rtc : ∀ op ∈ ops, op.IsRtc) (fresh : s.phase = .fresh)
    (hung : s.env.busHung = false) (bus : s.env.bus = .script (bytes.map .ok ++ rest))
    (enough : bytes.length = ops.countP MicroOp.isBus) :
    AllComplete ops s ∧ performAll ops s = answerAll rest ops bytes s ∧
      (performAll ops s).env = { s.env with bus := .script rest } := by
  induction ops generalizing s bytes with
  | nil =>
    obtain rfl := List.length_eq_zero_iff.mp enough
    exact ⟨fresh, rfl, by rw [performAll_nil, ← show _ = BusEnv.script rest from bus]⟩
  | cons op ops ih =>
    rw [List.forall_mem_cons] at rtc
    obtain ⟨opRtc, rtc⟩ := rtc
    rcases opRtc with rfl | isBus
    · obtain ⟨complete, run, env⟩ := ih (s := (s.record .busInit).advance) rtc rfl hung bus enough
      exact ⟨⟨fresh, complete⟩, run, env⟩
    · rw [List.countP_cons_of_pos isBus] at enough
      obtain ⟨b, bytes, rfl⟩ := List.exists_cons_of_length_eq_add_one enough
      have answer (q : BusReq) : s.env.answer s.params.devAddr q =
          (.ok b, { s.env with bus := .script (bytes.map .ok ++ rest) }) := by
        rw [Env.answer, bus]
        rfl
      have next {u : State} (done : perform op s = u) (fresh' : u.phase = .fresh)
          (env' : u.env = { s.env with bus := .script (bytes.map .ok ++ rest) }) :
          AllComplete (op :: ops) s ∧ performAll (op :: ops) s = answerAll rest ops bytes u ∧
            (performAll (op :: ops) s).env = { s.env with bus := .script rest } := by
        obtain ⟨complete, run, env⟩ := ih (s := u) rtc fresh' (by rw [env', hung]) (by rw [env']) (Nat.succ.inj enough)
        rw [env'] at env
        rw [performAll_cons, done]
        exact ⟨⟨fresh, done ▸ complete⟩, run, env⟩
      cases op <;> cases isBus
      case busWrite.refl => exact next (transact_answered fresh hung (answer _) fun _ u => u) rfl rfl
      case busRead.refl => exact next (transact_answered fresh hung (answer _) _) rfl (by simp)

/-- An RTC command all of whose transactions are answered. -/
theorem Started.runCommand_script (h : Started i s) (rtc : i.isRtc = true) {ops : List MicroOp}
    (isOps : i.ops s.params = ops) {bytes : List Byte} (hung : s.env.busHung = false)
    (bus : s.env.bus = .script (bytes.map .ok ++ rest)) (enough : bytes.length = ops.countP MicroOp.isBus) :
    runCommand i (ops.length + 1) s = .next (i.finish (answerAll rest ops bytes s)) := by
  subst isOps
  obtain ⟨complete, run, -⟩ := performAll_script (isRtc_of_mem_ops rtc) h.phase hung bus enough
  rw [(h.runCommand_all complete).2, run]

/-- Settles O28. -/
theorem rtcInitRun : Obligations.RtcInitRun := by
  intro s x y b rest start hung bus
  refine ((started_of_isRtc rfl rfl start).runCommand_script rfl (ops := rtcInitOps s.params) rfl
    (bytes := [x, y, b]) hung bus rfl).trans ?_
  simp [answerAll, rtcInitOps, regWriteOps, regReadOps, Instr.finish, Instr.results, respondOk, respond, State.record,
    State.advance, State.withEnv, State.keep, Results.zero, clockHaltedByte, decCh, start.seq, start.phase]

/-- Settles O29. -/
theorem rtcSetTimeRun : Obligations.RtcSetTimeRun := by
  intro s sec min hr fmt x y z rest start hung valid bus
  refine ((started_of_isRtc (i := .rtcSetTime ..) rfl valid start).runCommand_script rfl (ops_rtcSetTime valid)
    (bytes := [x, y, z]) hung bus rfl).trans ?_
  simp [answerAll, regWritesOps, timeWrites, regWriteOps, Instr.finish, Instr.results, respondOk, respond,
    State.record, State.advance, State.withEnv, Results.zero, start.seq, start.phase]

/-- Settles O30. -/
theorem rtcGetTimeRun : Obligations.RtcGetTimeRun := by
  intro s x bs y bm z bh rest start hung bus
  refine ((started_of_isRtc rfl rfl start).runCommand_script rfl (ops := getTimeOps s.params) rfl
    (bytes := [x, bs, y, bm, z, bh]) hung bus rfl).trans ?_
  simp [answerAll, getTimeOps, regReadOps, Instr.finish, Instr.results, getTimeResults, decSeconds, respondOk, respond,
    State.record, State.advance, State.withEnv, State.keep, start.seq, start.phase]

/-- Settles O31. -/
theorem rtcSetDateRun : Obligations.RtcSetDateRun := by
  intro s d mo y w a b c e rest start hung valid bus
  refine ((started_of_isRtc (i := .rtcSetDate ..) rfl valid start).runCommand_script rfl (ops_rtcSetDate valid)
    (bytes := [a, b, c, e]) hung bus rfl).trans ?_
  simp [answerAll, regWritesOps, dateWrites, regWriteOps, Instr.finish, Instr.results, respondOk, respond,
    State.record, State.advance, State.withEnv, Results.zero, start.seq, start.phase]

/-- Settles O32. -/
theorem rtcGetDateRun : Obligations.RtcGetDateRun := by
  intro s a bd b bo c bY e bw rest start hung bus
  refine ((started_of_isRtc rfl rfl start).runCommand_script rfl (ops := getDateOps s.params) rfl
    (bytes := [a, bd, b, bo, c, bY, e, bw]) hung bus rfl).trans ?_
  simp [answerAll, getDateOps, regReadOps, Instr.finish, Instr.results, getDateResults, respondOk, respond,
    State.record, State.advance, State.withEnv, State.keep, start.seq, start.phase]

/-! ### The first transaction that fails (R129) -/

/-- A list with more than `n` elements that satisfy `q` splits at the one with `n` of them before it. -/
theorem exists_split_of_lt_countP {α : Type} {q : α → Bool} {l : List α} {n : Nat} (h : n < l.countP q) :
    ∃ before a after, l = before ++ a :: after ∧ q a = true ∧ before.countP q = n := by
  induction l generalizing n with
  | nil => simp at h
  | cons a l ih =>
    by_cases satisfies : q a = true
    · rw [List.countP_cons_of_pos satisfies] at h
      cases n with
      | zero => exact ⟨[], a, l, rfl, satisfies, rfl⟩
      | succ n =>
        obtain ⟨before, b, after, rfl, hb, count⟩ := ih (Nat.lt_of_succ_lt_succ h)
        exact ⟨a :: before, b, after, rfl, hb, by rw [List.countP_cons_of_pos satisfies, count]⟩
    · rw [List.countP_cons_of_neg satisfies] at h
      obtain ⟨before, b, after, rfl, hb, count⟩ := ih h
      exact ⟨a :: before, b, after, rfl, hb, by rw [List.countP_cons_of_neg satisfies, count]⟩

/-- A command whose micro-operations are complete up to a transaction that fails: the step after it is the response with
`BUS_ERROR`. -/
theorem Started.runCommand_fail (h : Started i s) (rtc : i.isRtc = true)
    (isOps : i.ops s.params = before ++ op :: after)
    (complete : AllComplete before s) (failed : (perform op (performAll before s)).phase = .failed) :
    ∃ u, u = perform op (performAll before s) ∧ runCommand i (before.length + 1) s = .next u ∧ u.busy = true ∧
      u.rsp = s.rsp ∧ u.trace = s.trace ++ before.map (MicroOp.event s.params.devAddr) ++ [op.event s.params.devAddr] ∧
      exec i u = .next (raise .busError u) ∧ runCommand i (before.length + 2) s = .next (raise .busError u) := by
  have steps := h.runCommand_take (k := before.length) (by simpa [isOps] using complete)
  rw [isOps, List.take_left' rfl] at steps
  have here : i.opAt (performAll before s) = some op := by
    rw [opAt_eq_getElem? h.notStr, performAll_params, complete.seq, h.seq, isOps]
    simp
  have first : exec i (performAll before s) = .next (perform op (performAll before s)) := by
    rw [exec_of_going (h.going (by simp) complete.phase), goOn_of_opAt here, h.enter_eq_self (by simp)]
  have last := exec_of_failed rtc h.legal failed
  have run := (runCommand_add 1 steps).trans (runCommand_one (by simpa using h.busy) first)
  refine ⟨_, rfl, run, by simpa using h.busy, by simp, ?_, last,
    (runCommand_add 1 run).trans (runCommand_one (by simpa using h.busy) last)⟩
  rw [perform_trace_of_not_issued (by simp [complete.phase]), complete.trace, performAll_params]

theorem performAll_lines_of_isRtc (rtc : ∀ op ∈ ops, op.IsRtc) : (performAll ops s).lines = s.lines := by
  induction ops generalizing s with
  | nil => rfl
  | cons op ops ih =>
    rw [List.forall_mem_cons] at rtc
    obtain ⟨opRtc, rtc⟩ := rtc
    exact (ih rtc).trans (perform_lines_of_not_isLine opRtc.not_isLine)

/-- Settles O33. -/
theorem firstFailedTransactionEndsCommand : Obligations.FirstFailedTransactionEndsCommand := by
  intro i s evs answers rest rtc legal start hung events fewer bus
  rw [← ops_events legal events, List.countP_map] at fewer
  have sameCount (l : List MicroOp) :
      l.countP (Event.isBus ∘ MicroOp.event s.params.devAddr) = l.countP MicroOp.isBus :=
    List.countP_congr fun op _ => by rw [Function.comp, isBus_event]
  rw [sameCount] at fewer
  obtain ⟨before, op, after, isOps, isBus, count⟩ := exists_split_of_lt_countP fewer
  have opsRtc : ∀ op ∈ before, op.IsRtc := fun op mem =>
    isRtc_of_mem_ops (p := s.params) rtc op (by rw [isOps]; exact List.mem_append_left _ mem)
  obtain ⟨complete, -, env⟩ := performAll_script opsRtc start.phase hung bus count.symm
  obtain ⟨failed, failedEnv⟩ := perform_of_fail (s := performAll before s) (e := { s.env with bus := .script rest })
    isBus (by rw [env, hung]) (fun q => by rw [env, Env.answer])
  obtain ⟨u, rfl, run, busy, rsp, trace, last, runLast⟩ :=
    (started_of_isRtc rtc legal start).runCommand_fail rtc isOps complete failed
  refine ⟨_, _, before.map (MicroOp.event s.params.devAddr), after.map (MicroOp.event s.params.devAddr),
    op.event s.params.devAddr, by rw [← ops_events legal events, isOps, List.map_append, List.map_cons],
    by rwa [isBus_event], by rw [List.countP_map, sameCount, count], by rwa [List.length_map], busy, rsp, trace,
    by rwa [List.length_map], last, ?_, rfl, rfl, ?_, ?_, ?_⟩
  · simp [raise, respond, State.record, trace]
  · simp [raise, respond, State.record, failedEnv]
  · exact (perform_lines_of_not_isLine (MicroOp.IsRtc.not_isLine (.inr isBus))).trans
      (performAll_lines_of_isRtc opsRtc)
  · simp [raise, respond, State.record]

/-- The first transaction of an RTC command: `RTC_INIT` makes `BusInit` before it, the others nothing. -/
theorem exists_first_transaction {p : Params} (rtc : i.isRtc = true) (legal : i.operandsLegal = true) :
    ∃ op after, i.ops p = (if i = .rtcInit then [MicroOp.busInit] else []) ++ op :: after ∧ op.isBus = true := by
  cases i <;> cases rtc
  case rtcSetTime => exact ⟨_, _, ops_rtcSetTime legal, rfl⟩
  case rtcSetDate => exact ⟨_, _, ops_rtcSetDate legal, rfl⟩
  all_goals exact ⟨_, _, rfl, rfl⟩

/-- Settles O34. -/
theorem neverAcknowledged : Obligations.NeverAcknowledged := by
  refine ⟨fun i s rtc legal start hung bus => ?_, fun i s rtc illegal => ?_⟩
  · obtain ⟨op, after, isOps, isBus⟩ := exists_first_transaction (p := s.params) rtc legal
    set before := if i = .rtcInit then [MicroOp.busInit] else [] with isBefore
    have first : AllComplete before s ∧ (performAll before s).env = s.env ∧
        before.map (MicroOp.event s.params.devAddr) = if i = .rtcInit then [.busInit] else [] := by
      rw [isBefore]
      split_ifs
      · exact ⟨⟨start.phase, rfl⟩, rfl, rfl⟩
      · exact ⟨start.phase, rfl, rfl⟩
    obtain ⟨complete, env, events⟩ := first
    obtain ⟨failed, -⟩ := perform_of_fail (s := performAll before s) (e := s.env) isBus (by rw [env, hung])
      (fun q => by rw [env, Env.answer, bus])
    obtain ⟨u, -, -, -, -, trace, -, run⟩ :=
      (started_of_isRtc rtc legal start).runCommand_fail rtc isOps complete failed
    refine ⟨_, op.event s.params.devAddr, _, run, by rwa [isBus_event], ?_, rfl, rfl⟩
    simp [raise, respond, State.record, trace, events]
  · exact ⟨_, exec_of_not_operandsLegal illegal s, rfl, rfl, rfl, rfl⟩

/-! ### Against `SimRTC` -/

section
variable {chip chip' : SimRtc} {d d' : RtcData}

/-- A transaction `SimRTC` answers. -/
theorem transact_sim {q : BusReq} {b : Byte} (fresh : s.phase = .fresh) (hung : s.env.busHung = false)
    (bus : s.env.bus = .sim [] chip) (answer : chip.answer s.params.devAddr q = (.ok b, chip'))
    (f : Byte → State → State) :
    transact q f s = (f b ((s.record q.event).withEnv { s.env with bus := .sim [] chip' })).advance :=
  transact_answered fresh hung (by rw [Env.answer, bus]; simp only [answer]) f

/-- A register transaction does to the chip and the scratch bytes what `MicroOp.onRtc` says, whatever else the state
holds. -/
theorem perform_onRtc (fresh : s.phase = .fresh) (hung : s.env.busHung = false) (bus : s.env.bus = .sim [] d.chip)
    (scratch : s.scratch = d.scratch) (run : op.onRtc d = some d') : (perform op s).phase = .fresh ∧
      (perform op s).env = { s.env with bus := .sim [] d'.chip } ∧ (perform op s).scratch = d'.scratch := by
  have answered {q : BusReq} {b : Byte} {chip : SimRtc} := transact_sim (q := q) (b := b) (chip' := chip) fresh hung bus
  unfold MicroOp.onRtc at run
  split at run <;> cases run
  case h_1 =>
    rw [Machine.perform, answered (SimRtc.answer_write_reg ..)]
    exact ⟨rfl, rfl, scratch⟩
  case h_2 =>
    rw [Machine.perform, answered (SimRtc.answer_write_reg_byte ..)]
    exact ⟨rfl, rfl, scratch⟩
  case h_3 =>
    rw [Machine.perform, answered (SimRtc.answer_read_byte ..)]
    exact ⟨rfl, by simp, by simp [keep_scratch, scratch]⟩

theorem performAll_onRtc (fresh : s.phase = .fresh) (hung : s.env.busHung = false) (bus : s.env.bus = .sim [] d.chip)
    (scratch : s.scratch = d.scratch) (run : opsOnRtc ops d = some d') :
    AllComplete ops s ∧ (performAll ops s).env = { s.env with bus := .sim [] d'.chip } := by
  induction ops generalizing s d with
  | nil =>
    cases run
    exact ⟨fresh, by rw [performAll_nil, ← bus]⟩
  | cons op ops ih =>
    obtain ⟨d₁, opRun, run⟩ := Option.bind_eq_some_iff.mp run
    obtain ⟨fresh₁, env₁, scratch₁⟩ := perform_onRtc fresh hung bus scratch opRun
    obtain ⟨complete, env⟩ := ih fresh₁ (by rw [env₁, hung]) (by rw [env₁]) scratch₁ run
    exact ⟨⟨fresh, complete⟩, by rw [performAll_cons, env, env₁]⟩

/-- A command of register transactions runs to its completion, the chip as they leave it. -/
theorem Started.runCommand_onRtc (h : Started i s) (isOps : i.ops s.params = ops) (hung : s.env.busHung = false)
    (bus : s.env.bus = .sim [] chip) (notInit : i ≠ .lcdInit) (run : opsOnRtc ops ⟨chip, s.scratch⟩ = some d') :
    ∃ u, runCommand i (ops.length + 1) s = .next (respondOk (i.results u) u) ∧ u.env.bus = .sim [] d'.chip := by
  subst isOps
  obtain ⟨complete, env⟩ := performAll_onRtc h.phase hung bus rfl run
  exact ⟨_, finish_eq_respondOk notInit _ ▸ (h.runCommand_all complete).2, by rw [env]⟩

/-- Settles O59. -/
theorem rtcCommandsOnChipRegisters : Obligations.RtcCommandsOnChipRegisters := by
  refine ⟨fun s chip sec min hr fmt start hung distinct wf bus valid => ?_,
    fun s chip d mo y w start hung distinct wf bus valid => ?_, fun s chip start hung wf bus => ⟨?_, ?_⟩⟩
  · obtain ⟨chip', run, written, others⟩ := opsOnRtc_regWritesOps (timeWrites s.params sec min hr fmt)
      (timeWrites_distinct distinct ..) ⟨chip, s.scratch⟩ wf
    obtain ⟨u, steps, bus'⟩ := (started_of_isRtc (i := .rtcSetTime ..) rfl valid start).runCommand_onRtc
      (ops_rtcSetTime valid) hung bus (by simp) run
    simp only [timeWrites, List.forall_mem_cons] at written
    obtain ⟨secReg, minReg, hrReg, -⟩ := written
    exact ⟨_, chip', steps, rfl, rfl, bus', secReg, minReg, hrReg,
      fun a notSec notMin notHr => others a (by simp [timeWrites, notSec, notMin, notHr])⟩
  · obtain ⟨chip', run, written, others⟩ := opsOnRtc_regWritesOps (dateWrites s.params d mo y w)
      (dateWrites_distinct distinct ..) ⟨chip, s.scratch⟩ wf
    obtain ⟨u, steps, bus'⟩ := (started_of_isRtc (i := .rtcSetDate ..) rfl valid start).runCommand_onRtc
      (ops_rtcSetDate valid) hung bus (by simp) run
    simp only [dateWrites, List.forall_mem_cons] at written
    obtain ⟨dateReg, monthReg, yearReg, weekdayReg, -⟩ := written
    exact ⟨_, chip', steps, rfl, rfl, bus', dateReg, monthReg, yearReg, weekdayReg,
      fun a notDate notMonth notYear notWeekday =>
        others a (by simp [dateWrites, notDate, notMonth, notYear, notWeekday])⟩
  · obtain ⟨ptr, run⟩ := opsOnRtc_getTimeOps (p := s.params) ⟨chip, s.scratch⟩
    obtain ⟨u, steps, bus'⟩ := (started_of_isRtc (i := .rtcGetTime) rfl rfl start).runCommand_onRtc rfl hung bus
      (by simp) run
    exact ⟨_, _, steps, rfl, rfl, bus', fun _ => rfl⟩
  · obtain ⟨ptr, run⟩ := opsOnRtc_getDateOps (p := s.params) ⟨chip, s.scratch⟩
    obtain ⟨u, steps, bus'⟩ := (started_of_isRtc (i := .rtcGetDate) rfl rfl start).runCommand_onRtc rfl hung bus
      (by simp) run
    exact ⟨_, _, steps, rfl, rfl, bus', fun _ => rfl⟩

/-- The chip after `RTC_INIT`: 0 is written to the seconds register and read back. -/
def SimRtc.afterInit (p : Params) (chip : SimRtc) : SimRtc :=
  { chip.setReg p.regSeconds 0x00#8 with ptr := p.regSeconds + 1#8 }

theorem SimRtc.regAt_afterInit (wf : chip.wf = true) (p : Params) (a : Byte) :
    (chip.afterInit p).regAt a = if a = p.regSeconds then 0x00#8 else chip.regAt a := chip.regAt_setReg _ a _ wf

/-- The micro-operations of `RTC_INIT` against `SimRTC`: the byte read back is the 0 just written. -/
theorem performAll_rtcInitOps_sim (fresh : s.phase = .fresh) (hung : s.env.busHung = false)
    (bus : s.env.bus = .sim [] chip) (wf : chip.wf = true) : AllComplete (rtcInitOps s.params) s ∧
      (performAll (rtcInitOps s.params) s).env.bus = .sim [] (chip.afterInit s.params) ∧
      (performAll (rtcInitOps s.params) s).readBack = 0x00#8 := by
  set p := s.params with hp
  set s₁ := (s.record .busInit).advance with h₁
  obtain ⟨complete, env⟩ := performAll_onRtc (s := s₁) (d := ⟨chip, s.scratch⟩)
    (ops := regWriteOps p.regSeconds 0x00#8 ++ [.busWrite [p.regSeconds]]) rfl hung bus rfl rfl
  set v := performAll (regWriteOps p.regSeconds 0x00#8 ++ [.busWrite [p.regSeconds]]) s₁ with hv
  have read : perform (.busRead .readBack) v = _ := transact_sim complete.phase (by rw [env]; exact hung) (by rw [env])
    (by rw [hv, performAll_params]; exact SimRtc.answer_read_byte ..) fun b t => t.keep .readBack b
  have split : performAll (rtcInitOps p) s = perform (.busRead .readBack) v := rfl
  rw [split, read]
  refine ⟨⟨fresh, complete.1, complete.2.1, complete.phase, ?_⟩, rfl, ?_⟩
  · exact read ▸ rfl
  · exact (SimRtc.regAt_afterInit wf p p.regSeconds).trans (if_pos rfl)

/-- Settles O36. -/
theorem rtcInitCannotSeeHaltedClock : Obligations.RtcInitCannotSeeHaltedClock := by
  intro s chip start hung wf bus
  obtain ⟨complete, bus', zero⟩ := performAll_rtcInitOps_sim start.phase hung bus wf
  refine ⟨_, chip.afterInit s.params, ((started_of_isRtc (i := .rtcInit) rfl rfl start).runCommand_all complete).2, rfl,
    ?_, bus', ?_, fun a other => ?_⟩
  · simp [Instr.finish, Instr.results, respondOk, respond, State.record, Instr.ops, zero, clockHaltedByte, decCh,
      Results.zero]
  · rw [SimRtc.regAt_afterInit wf, if_pos rfl]
  · rw [SimRtc.regAt_afterInit wf, if_neg other]

end

end

end Sys2Proof.Machine
end

section
/-! PROOFS. The opcode table, the textual form and the response word (30_encoding.md R71, R79, R83): words as numbers,
and what the directive `.string` leaves in the string memory. -/

namespace Sys2Proof

/-! ### The opcode table (R79) -/

section
variable {w : Word40} {i j : Instr}

/-- The row of the opcode table that names a command. -/
def Instr.row (i : Instr) : OpRow := ⟨i.mnemonic, packWord i.opcode 0#8 0#8 0#8 0#8⟩

/-- A command of each row. -/
def rowSamples : List Instr :=
  [.bin2bcd 0#8, .bcd2bin 0#8, .rtcInit, .rtcSetTime 0#8 0#8 0#8 0#8, .rtcGetTime, .rtcSetDate 0#8 0#8 0#8 0#8,
   .rtcGetDate, .lcdInit, .lcdCmd 0#8, .lcdChar 0#8, .lcdStr 0#16, .lcdHome, .lcdClear, .lcdCursor 0#8 0#8]

theorem opRows_eq_rows : opRows = rowSamples.map Instr.row := by decide

theorem row_mem_opRows (i : Instr) : i.row ∈ opRows := by
  cases i <;> simp [opRows_eq_rows, rowSamples, Instr.row, Instr.mnemonic, Instr.opcode]

theorem opRows_mnemonic_nodup : (opRows.map OpRow.mnemonic).Nodup := by decide

/-- The mnemonic of a command fixes its opcode. -/
theorem opcode_eq_of_mnemonic_eq (same : i.mnemonic = j.mnemonic) : i.opcode = j.opcode := by
  have rows : i.row = j.row :=
    List.inj_on_of_nodup_map opRows_mnemonic_nodup (row_mem_opRows i) (row_mem_opRows j) same
  simpa [Instr.row] using congrArg (opField ∘ OpRow.matchWord) rows

theorem spelledBy_row_iff : i.row.spelledBy w = true ↔ opField w = i.opcode := by
  rw [OpRow.spelledBy, beq_iff_eq, opMask, and_formatN, Instr.row]
  exact ⟨fun h => by simpa using congrArg opField h, fun h => by rw [h]⟩

/-- Settles O2. -/
theorem decodeFollowsOpcodeTable : Obligations.DecodeFollowsOpcodeTable := by
  intro r mem w
  rw [opRows_eq_rows, List.mem_map] at mem
  obtain ⟨j, -, rfl⟩ := mem
  rw [spelledBy_row_iff]
  constructor
  · exact fun op => ⟨j.readFrom w, decode_of_opcode op, j.mnemonic_readFrom w⟩
  · rintro ⟨i, dec, same⟩
    exact (opcode_of_decode dec).symm.trans (opcode_eq_of_mnemonic_eq same)

/-- Settles O4. -/
theorem sampleWordsDecode : Obligations.SampleWordsDecode := by
  unfold Obligations.SampleWordsDecode
  decide

end

/-! ### Words as numbers (R70, R71) -/

theorem toNat_append_byte {n : Nat} (x : BitVec n) (b : Byte) : (x ++ b).toNat = x.toNat * 256 + b.toNat := by
  rw [BitVec.toNat_append, ← Nat.shiftLeft_add_eq_or_of_lt b.isLt, Nat.shiftLeft_eq]

theorem packWord_toNat (b4 b3 b2 b1 b0 : Byte) : (packWord b4 b3 b2 b1 b0).toNat =
    b4.toNat * 2 ^ 32 + b3.toNat * 2 ^ 24 + b2.toNat * 2 ^ 16 + b1.toNat * 2 ^ 8 + b0.toNat := by
  rw [packWord, BitVec.toNat_cast, toNat_append_byte, toNat_append_byte, toNat_append_byte, toNat_append_byte]
  omega

theorem packWord_ofNat {b4 b3 b2 b1 b0 : Byte} {n : Nat}
    (h : n = b4.toNat * 2 ^ 32 + b3.toNat * 2 ^ 24 + b2.toNat * 2 ^ 16 + b1.toNat * 2 ^ 8 + b0.toNat) :
    packWord b4 b3 b2 b1 b0 = BitVec.ofNat 40 n := by
  rw [h, ← packWord_toNat, BitVec.ofNat_toNat, BitVec.setWidth_eq]

/-- Settles O49. -/
theorem responseWordLayout : Obligations.ResponseWordLayout :=
  ⟨fun _ _ => ⟨_, rfl, packWord_toNat ..⟩, fun _ => rfl, rfl, rfl, rfl, rfl, rfl⟩

/-! ### The textual form (R83) -/

theorem addrHigh_toNat (a : StrAddr) : (addrHigh a).toNat = a.toNat / 256 := by
  have bound : a.toNat < 65536 := a.isLt
  rw [addrHigh, BitVec.extractLsb'_toNat, Nat.shiftRight_eq_div_pow]
  omega

theorem addrLow_toNat (a : StrAddr) : (addrLow a).toNat = a.toNat % 256 := BitVec.extractLsb'_toNat ..

theorem assemble_of_wellFormed {l : SourceLine} (h : l.wellFormed = true) : l.assemble = l.toInstr.map encode :=
  if_pos h

/-- Settles O5. -/
theorem sourceLinesAssembleAsListed : Obligations.SourceLinesAssembleAsListed := by
  refine ⟨fun n hn => ?_, fun b hb => ?_, by decide, fun h hh m hm s hs f => ?_, by decide,
    fun d hd m hm y hy w hw => ?_, by decide, by decide, fun b hb => ?_, fun b hb => ?_, fun a ha => ?_, by decide,
    by decide, fun r hr c hc => ?_, fun l ill => if_neg (by simp [ill])⟩
  all_goals
    rw [assemble_of_wellFormed (by simp [SourceLine.wellFormed, fitsByte, fitsAddr, *])]
    refine congrArg some (packWord_ofNat ?_)
    simp only [BitVec.toNat_ofNat, addrHigh_toNat, addrLow_toNat]
    omega

/-! ### The directive `.string` (R83, 20_memory.md R51) -/

namespace Machine

section
variable {m : Cells} {a x : StrAddr} {bs : List Byte}

theorem add_one_add_ofNat (a : StrAddr) (k : Nat) : a + 1#16 + BitVec.ofNat 16 k = a + BitVec.ofNat 16 (k + 1) := by
  rw [BitVec.add_assoc, Nat.add_comm k, BitVec.ofNat_add]

theorem ne_add_ofNat (a : StrAddr) {k : Nat} (pos : 0 < k) (short : k < 65536) : a ≠ a + BitVec.ofNat 16 k := by
  intro same
  have zero : BitVec.ofNat 16 k = 0#16 := by simpa using same
  have number := congrArg BitVec.toNat zero
  rw [BitVec.toNat_ofNat, Nat.mod_eq_of_lt short] at number
  exact pos.ne' number

theorem placeString_wf (bs : List Byte) (wf : Memory.wf m = true) : Memory.wf (placeString m a bs) = true := by
  induction bs generalizing m a with
  | nil => exact Memory.write_wf m a _ wf
  | cons b bs ih => exact ih (Memory.write_wf m a b wf)

/-- Placing a string changes no byte but those of the text and of its terminator. -/
theorem read_placeString_of_outside (bs : List Byte) (wf : Memory.wf m = true)
    (outside : ∀ k ≤ bs.length, x ≠ a + BitVec.ofNat 16 k) : Memory.read (placeString m a bs) x = Memory.read m x := by
  induction bs generalizing m a with
  | nil => rw [placeString, Memory.read_write m a x _ wf, if_neg (by simpa using outside 0 le_rfl)]
  | cons b bs ih =>
    rw [placeString, ih (Memory.write_wf m a b wf), Memory.read_write m a x b wf,
      if_neg (by simpa using outside 0 (Nat.zero_le _))]
    intro k le
    rw [add_one_add_ofNat]
    exact outside (k + 1) (Nat.succ_le_succ le)

/-- The bytes of a text that does not come round to its beginning stand from its address on, a zero byte after them. -/
theorem read_placeString (bs : List Byte) (wf : Memory.wf m = true) (short : bs.length < 65536) {k : Nat} {b : Byte}
    (here : (bs ++ [0x00#8])[k]? = some b) : Memory.read (placeString m a bs) (a + BitVec.ofNat 16 k) = b := by
  induction bs generalizing m a k with
  | nil =>
    obtain ⟨rfl, rfl⟩ : k = 0 ∧ b = 0x00#8 := by
      cases k <;> simp_all
    simp [placeString, Memory.read_write m a a _ wf]
  | cons c bs ih =>
    rw [List.length_cons] at short
    cases k with
    | zero =>
      obtain rfl : c = b := by simpa using here
      rw [placeString, read_placeString_of_outside bs (Memory.write_wf m a c wf), Memory.read_write m a _ c wf,
        if_pos (by simp)]
      intro k le
      rw [add_one_add_ofNat]
      simpa using ne_add_ofNat a (Nat.succ_pos k) (by omega)
    | succ k =>
      have here : (bs ++ [0x00#8])[k]? = some b := here
      have rest := ih (a := a + 1#16) (Memory.write_wf m a c wf) (by omega) here
      rwa [add_one_add_ofNat] at rest

/-- The string that stands where a text and a zero byte stand is the text up to its first zero byte. -/
theorem stringAt_of_reads (t : List Nat) (bytes : ∀ n ∈ t, n < 256)
    (reads : ∀ (k n : Nat), (t ++ [0])[k]? = some n → Memory.read m (a + BitVec.ofNat 16 k) = BitVec.ofNat 8 n) :
    StringAt m a ((t.takeWhile fun n => decide (n ≠ 0)).map (BitVec.ofNat 8)) := by
  induction t generalizing a with
  | nil => simpa [StringAt] using reads 0 0 rfl
  | cons n t ih =>
    rw [List.forall_mem_cons] at bytes
    have first : Memory.read m a = BitVec.ofNat 8 n := by simpa using reads 0 n rfl
    by_cases zero : n = 0
    · subst zero
      exact first
    · have nonzero : BitVec.ofNat 8 n ≠ 0x00#8 := fun same =>
        zero ((Nat.mod_eq_of_lt bytes.1).symm.trans (congrArg BitVec.toNat same))
      rw [List.takeWhile_cons_of_pos (by simpa using zero), List.map_cons]
      refine ⟨first, nonzero, ih bytes.2 fun k n here => ?_⟩
      rw [add_one_add_ofNat]
      exact reads (k + 1) n here

end

end Machine

open Machine in
/-- Settles O6. -/
theorem stringDirectivePlacesText : Obligations.StringDirectivePlacesText := by
  refine ⟨fun m l notString => ?_, fun m a t ill => if_neg (by simp [ill]), fun m a t wellFormed wf => ?_⟩
  · cases l
    case string a t => exact absurd rfl (notString a t)
    all_goals rfl
  have placed : (SourceLine.string a t).place m = placeString m (BitVec.ofNat 16 a) (t.map (BitVec.ofNat 8)) :=
    if_pos wellFormed
  have bytes : ∀ n ∈ t, n < 256 := by
    simp only [SourceLine.wellFormed, Bool.and_eq_true, List.all_eq_true, fitsByte, decide_eq_true_eq] at wellFormed
    exact wellFormed.2
  rw [placed]
  refine ⟨placeString_wf _ wf, fun x outside => read_placeString_of_outside _ wf fun k le => ?_, fun short => ?_⟩
  · rw [← BitVec.ofNat_add]
    exact outside k (by simpa using le)
  have reads (k n : Nat) (here : (t ++ [0])[k]? = some n) :
      Memory.read (placeString m (BitVec.ofNat 16 a) (t.map (BitVec.ofNat 8))) (BitVec.ofNat 16 a + BitVec.ofNat 16 k) =
        BitVec.ofNat 8 n := by
    refine read_placeString _ wf (by simpa using short) ?_
    have same : t.map (BitVec.ofNat 8) ++ [0x00#8] = (t ++ [0]).map (BitVec.ofNat 8) := by simp
    rw [same, List.getElem?_map, here]
    rfl
  simp only [BitVec.ofNat_add]
  refine ⟨fun k n here => reads k n ?_, reads t.length 0 (by simp), stringAt_of_reads t bytes reads⟩
  rw [List.getElem?_append_left (List.getElem?_eq_some_iff.mp here).1, here]

end Sys2Proof
end

section
/-! PROOFS. The codecs and the range checks of the commands (40_bcd.md R100, 41_rtc.md R121 to R138, 42_lcd.md R165,
R172). -/

namespace Sys2Proof.Machine

/-- Settles O18. -/
theorem binToBcdOnItsDomain : Obligations.BinToBcdOnItsDomain := by
  refine ⟨fun n le => ?_, fun n => binToBcd_eq_none⟩
  obtain ⟨b, value⟩ := exists_binToBcd_eq_some le
  obtain ⟨-, number⟩ := (binToBcd_eq_some_iff_digits n b).mp value
  exact ⟨b, value, by rw [hiNibble_toNat]; omega, by rw [loNibble_toNat]; omega, number, by omega⟩

/-- Settles O23. -/
theorem secondsCodec : Obligations.SecondsCodec := by
  refine ⟨fun s le => ?_, fun b => ⟨rfl, ?_⟩, fun b => rfl, fun b => ?_⟩
  · have low : (bcdByte s).toNat < 128 := by rw [bcdByte_toNat (by omega)]; omega
    exact ⟨encSeconds_eq s le, decCh_of_lt low, and_clearCh_of_lt low⟩
  · have low : (b &&& 0x7F#8).toNat ≤ 127 := Nat.and_le_right
    rw [decSeconds, bcdToBin_toNat]
    omega
  · rw [decSeconds, BitVec.and_or_distrib_right]
    exact congrArg bcdToBin (BitVec.or_zero ..)

/-- Settles O24. -/
theorem hoursCodec : Obligations.HoursCodec := by
  refine ⟨fun h pos le => ?_, fun h le => ?_, fun b twelve => if_pos twelve,
    fun b notTwelve => if_neg (notTwelve ▸ Bool.false_ne_true)⟩
  · exact ⟨encHours_eq_or_formatBits (decide_eq_true ⟨pos, le⟩), encHours_eq_or_formatBits (decide_eq_true ⟨pos, le⟩)⟩
  · rw [encHours_eq_or_formatBits (fmt := .hour24) (decide_eq_true le)]
    exact congrArg some (BitVec.or_zero ..)

/-- Settles O26. -/
theorem operandRangeChecks : Obligations.OperandRangeChecks := by
  refine ⟨fun s m h f => ?_, fun d mo y w => ?_⟩
  · rw [validTime, TimeFormat.ofByte]
    split_ifs with am pm hour24 <;> simp_all [hoursLegal, and_assoc]
  · simp only [validDate, Bool.and_eq_true, decide_eq_true_eq, and_assoc]

theorem sub_one_eq_ofNat (c : Byte) : c - 1#8 = BitVec.ofNat 8 ((c.toNat + 255) % 256) := by
  apply BitVec.eq_of_toNat_eq
  rw [sub_one_eq_add_255, BitVec.toNat_add, BitVec.toNat_ofNat, BitVec.toNat_ofNat]
  omega

/-- A column byte below the display's address bits stands beside them. -/
theorem ofNat_or_displayBits : ∀ k < 16, BitVec.ofNat 8 k ||| 0x80#8 = BitVec.ofNat 8 (0x80 + k) ∧
    BitVec.ofNat 8 k ||| 0xC0#8 = BitVec.ofNat 8 (0xC0 + k) := by decide

/-- Settles O47. -/
theorem cursorCommandByte : Obligations.CursorCommandByte := by
  have first (c : Byte) : cursorCmd 1#8 c = some (BitVec.ofNat 8 ((c.toNat + 255) % 256) ||| 0x80#8) := by
    rw [← sub_one_eq_ofNat]; rfl
  have second (c : Byte) : cursorCmd 2#8 c = some (BitVec.ofNat 8 ((c.toNat + 255) % 256) ||| 0xC0#8) := by
    rw [← sub_one_eq_ofNat]; rfl
  refine ⟨first, second, fun r c notFirst notSecond => ?_, fun c pos le => ?_, by decide, by decide, by decide⟩
  · rw [cursorCmd, if_neg notFirst, if_neg notSecond]
  · obtain ⟨row1, row2⟩ := ofNat_or_displayBits (c.toNat - 1) (by omega)
    have column : (c.toNat + 255) % 256 = c.toNat - 1 := by omega
    rw [first, second, column, row1, row2]
    exact ⟨rfl, rfl⟩

/-- Settles O41. -/
theorem powerOnNibbles : Obligations.PowerOnNibbles := by
  unfold Obligations.PowerOnNibbles
  decide

end Sys2Proof.Machine
end
